-- ==== Sys2Proof/Config.lean ====
section
/-! DEFINITION. What a build of the block fixes (R11). The spec leaves no value of a run open (R58), so there is no free value here. -/

namespace Sys2Proof

/-- The build parameters of R11: `STORE_DATA_AVAIL_ANOMALY` (R31, D3), `CYCLE_BITS` (D5) and `MAX_INSTRS` (D18).
`none` for a width or a length means that the build does not bound it, as in the spec's own model. -/
structure Config.Build where
  storeDataAvailAnomaly : Bool
  cycleBits : Option Nat
  maxInstrs : Option Nat
  deriving DecidableEq, Repr

/-- The default build: no anomaly write (R31), unbounded cycle numbers (D5), sequences of any length (D18). -/
def Config.Build.default : Config.Build :=
  { storeDataAvailAnomaly := false, cycleBits := none, maxInstrs := none }

end Sys2Proof
end

