-- ==== Sys2Proof/Word.lean ====
section
/-! DEFINITION. The three plain quantities of the spec: an instruction word, a register id, a cycle number. -/

namespace Sys2Proof

/-- An InstructionWord: 32 bits, bit 0 the least significant (R11, R12). -/
abbrev Word := BitVec 32

/-- A register id, 0 to 31 (R27, R87). It is only ever an index into the tracker (R29), so it is not a bit vector. -/
abbrev RegId := Fin 32

/-- A cycle number: an unbounded natural; cycle 1 is the first cycle of a run, cycle 0 means "before the run" (R14, D5). -/
abbrev Cycle := Nat

end Sys2Proof
end

