-- ==== Sys2Proof/Syntax.lean ====
section
/-! DEFINITION. The entries of the instruction store, the decoder's output in its two forms, and the words of a row. -/

namespace Sys2Proof

/-- One entry of the input sequence: a 32-bit word, or a token the host could not parse (R47). -/
inductive Entry where
  | word (w : Word)
  | invalid
  deriving DecidableEq, Repr

/-- InstructionFormat: the closed tag the decoder assigns (R81). -/
inductive Format where
  | R
  | I
  | LOAD
  | STORE
  | BRANCH
  | LUI
  | AUIPC
  | UNKNOWN
  deriving DecidableEq, Repr

/-- InstructionDescriptor, as the triple of R81. -/
structure Descriptor where
  format : Format
  sourceRegisters : List RegId
  destinationRegister : Option RegId
  deriving DecidableEq, Repr

/-- A decoded instruction: one constructor per row of the opcode table, carrying the register fields that class has (R66).
It is the descriptor as a closed tagged union; `Instr.descriptor` (Decode.lean) gives the triple. funct3, funct7 and the
immediate bits are not held, since the decoder never reads them (R67, R68, R88). DEDUCED (log entry 6). -/
inductive Instr where
  | r (rd rs1 rs2 : RegId)
  | i (rd rs1 : RegId)
  | load (rd rs1 : RegId)
  | store (rs1 rs2 : RegId)
  | branch (rs1 rs2 : RegId)
  | lui (rd : RegId)
  | auipc (rd : RegId)
  | unknown
  deriving DecidableEq, Repr

/-- The decoder's output wires in a port-level build, with the input's `valid` bit beside them (R80). -/
structure DecoderWires where
  valid : Bool
  format : BitVec 3
  nsrc : BitVec 2
  src0 : BitVec 5
  src1 : BitVec 5
  destValid : Bool
  dest : BitVec 5
  deriving DecidableEq, Repr

/-- The five pipeline stages (R16, R115). -/
inductive Stage where
  | IF
  | ID
  | EXE
  | MEM
  | WB
  deriving DecidableEq, Repr

/-- One of the seven values of a cell: a stage label, the bubble `"-"`, or `BLANK` (R35). -/
inductive Cell where
  | stage (st : Stage)
  | bubble
  | blank
  deriving DecidableEq, Repr

/-- PipelineRow: one cell per cycle from cycle 1, cell 1 first (R36, R116). -/
abbrev Row := List Cell

end Sys2Proof
end

