-- ==== Sys2Proof/WellFormed.lean ====
section
/-! DEFINITION. Which descriptor triples the block has: the shape each format fixes (R66, R81).
A register id needs no check: it is in 0 to 31 by its type (R27, R87). -/

namespace Sys2Proof

/-- How many source registers a format carries: the sourceRegisters column of R66. -/
def Format.sourceCount : Format → Nat
  | .R => 2
  | .I => 1
  | .LOAD => 1
  | .STORE => 2
  | .BRANCH => 2
  | .LUI => 0
  | .AUIPC => 0
  | .UNKNOWN => 0

/-- Whether a format defines a destination: "`R, I, LOAD, LUI, AUIPC`" (R66). -/
def Format.hasDestination : Format → Bool
  | .R => true
  | .I => true
  | .LOAD => true
  | .STORE => false
  | .BRANCH => false
  | .LUI => true
  | .AUIPC => true
  | .UNKNOWN => false

/-- A triple has its format's number of sources, and a destination exactly when its format defines one. -/
def Descriptor.wellFormed (d : Descriptor) : Bool :=
  d.sourceRegisters.length == d.format.sourceCount &&
    d.destinationRegister.isSome == d.format.hasDestination

end Sys2Proof
end

