-- ==== Sys2Proof/Decode.lean ====
section
/-! DEFINITION. The Decoder: a total function of one entry, without state (R20, R80 to R89), its port wires, and an encoder. -/

namespace Sys2Proof

/-- `w[hi:lo]`: the unsigned value of bits `hi` down to `lo`, inclusive (R12). -/
def slice (w : Word) (hi lo : Nat) : Nat :=
  (w.toNat >>> lo) % 2 ^ (hi + 1 - lo)

/-- `opcode = w[6:0]` (R61). -/
def opcode (w : Word) : Nat := slice w 6 0

/-- `rd = w[11:7]` (R63). -/
def fieldRd (w : Word) : RegId := Fin.ofNat 32 (slice w 11 7)

/-- `rs1 = w[19:15]` (R64). -/
def fieldRs1 (w : Word) : RegId := Fin.ofNat 32 (slice w 19 15)

/-- `rs2 = w[24:20]` (R65). -/
def fieldRs2 (w : Word) : RegId := Fin.ofNat 32 (slice w 24 20)

/-- The opcode map: seven values and a default (R62, R70). -/
def formatOfOpcode (op : Nat) : Format :=
  if op = 0b0110011 then .R
  else if op = 0b0010011 then .I
  else if op = 0b0000011 then .LOAD
  else if op = 0b0100011 then .STORE
  else if op = 0b1100011 then .BRANCH
  else if op = 0b0110111 then .LUI
  else if op = 0b0010111 then .AUIPC
  else .UNKNOWN

/-- The format decides which of the three fields the descriptor carries (R66). -/
def assemble (f : Format) (rd rs1 rs2 : RegId) : Instr :=
  match f with
  | .R => .r rd rs1 rs2
  | .I => .i rd rs1
  | .LOAD => .load rd rs1
  | .STORE => .store rs1 rs2
  | .BRANCH => .branch rs1 rs2
  | .LUI => .lui rd
  | .AUIPC => .auipc rd
  | .UNKNOWN => .unknown

/-- `decode(word)` for a 32-bit word (R82). Total: an unrecognised opcode is UNKNOWN (R70, R83). -/
def decodeWord (w : Word) : Instr :=
  assemble (formatOfOpcode (opcode w)) (fieldRd w) (fieldRs1 w) (fieldRs2 w)

/-- `decode(e)` (R82): an `Invalid` entry decodes to UNKNOWN (R85). It depends on the entry alone (R74, R84). -/
def decode (e : Entry) : Instr :=
  match e with
  | .word w => decodeWord w
  | .invalid => .unknown

/-- The tag of a decoded instruction (R81). -/
def Instr.format : Instr → Format
  | .r _ _ _ => .R
  | .i _ _ => .I
  | .load _ _ => .LOAD
  | .store _ _ => .STORE
  | .branch _ _ => .BRANCH
  | .lui _ => .LUI
  | .auipc _ => .AUIPC
  | .unknown => .UNKNOWN

/-- sourceRegisters, in the fixed order `rs1` then `rs2`, not deduplicated (R66, R86). -/
def Instr.sourceRegisters : Instr → List RegId
  | .r _ rs1 rs2 => [rs1, rs2]
  | .i _ rs1 => [rs1]
  | .load _ rs1 => [rs1]
  | .store rs1 rs2 => [rs1, rs2]
  | .branch rs1 rs2 => [rs1, rs2]
  | .lui _ => []
  | .auipc _ => []
  | .unknown => []

/-- destinationRegister (R66). A destination of 0 is a real destination (R28, R87). -/
def Instr.destinationRegister : Instr → Option RegId
  | .r rd _ _ => some rd
  | .i rd _ => some rd
  | .load rd _ => some rd
  | .store _ _ => none
  | .branch _ _ => none
  | .lui rd => some rd
  | .auipc rd => some rd
  | .unknown => none

/-- The descriptor triple of R81. -/
def Instr.descriptor (i : Instr) : Descriptor :=
  { format := i.format, sourceRegisters := i.sourceRegisters, destinationRegister := i.destinationRegister }

/-- An instruction is well-formed when its descriptor is; every value of `Instr` is (Laws/PerInstr.lean). -/
def Instr.wellFormed (i : Instr) : Bool := i.descriptor.wellFormed

/-- The 3-bit wire code of a format (R76). -/
def formatCode : Format → BitVec 3
  | .R => 0
  | .I => 1
  | .LOAD => 2
  | .STORE => 3
  | .BRANCH => 4
  | .LUI => 5
  | .AUIPC => 6
  | .UNKNOWN => 7

/-- A register id on a 5-bit wire, 0 where the descriptor does not carry it (R80). -/
def regWire (r : Option RegId) : BitVec 5 :=
  match r with
  | some r => BitVec.ofNat 5 r.val
  | none => 0

/-- The decoder as a port-level block: the wires it drives for an entry (R80). `valid` is 0 for an `Invalid` entry. -/
def decoderWires (e : Entry) : DecoderWires :=
  let d := (decode e).descriptor
  { valid := match e with
      | .word _ => true
      | .invalid => false
    format := formatCode d.format
    nsrc := BitVec.ofNat 2 d.sourceRegisters.length
    src0 := regWire d.sourceRegisters[0]?
    src1 := regWire d.sourceRegisters[1]?
    destValid := d.destinationRegister.isSome
    dest := regWire d.destinationRegister }

/-- The decoder on a word of the opcode table, whose bits are numbered as R12 numbers them. The block has one length, 32 bits
(R60): a row that claims more has no word here (log entry 8). -/
def decodeTableWord (nbits w : Nat) : Option Instr :=
  if nbits ≤ 32 then some (decode (.word (BitVec.ofNat 32 (w % 2 ^ nbits)))) else none

/-- The opcode value of a format: the map of R62 read from right to left. UNKNOWN has 121 values; the encoder uses
`0000000`, whose word `0x00000000` R70 names. DESIGN CHOICE (log entry 8). -/
def opcodeOfFormat : Format → Nat
  | .R => 0b0110011
  | .I => 0b0010011
  | .LOAD => 0b0000011
  | .STORE => 0b0100011
  | .BRANCH => 0b1100011
  | .LUI => 0b0110111
  | .AUIPC => 0b0010111
  | .UNKNOWN => 0b0000000

/-- A word with an opcode at `w[6:0]` and register fields at `w[11:7]`, `w[19:15]`, `w[24:20]`, every other bit 0
(R61, R63 to R65). -/
def layout (op : Nat) (rd rs1 rs2 : RegId) : Word :=
  BitVec.ofNat 32 (op + rd.val * 2 ^ 7 + rs1.val * 2 ^ 15 + rs2.val * 2 ^ 20)

/-- The word of an instruction with every ignored bit 0 (R66). -/
def encode (i : Instr) : Word :=
  match i with
  | .r rd rs1 rs2 => layout (opcodeOfFormat .R) rd rs1 rs2
  | .i rd rs1 => layout (opcodeOfFormat .I) rd rs1 0
  | .load rd rs1 => layout (opcodeOfFormat .LOAD) rd rs1 0
  | .store rs1 rs2 => layout (opcodeOfFormat .STORE) 0 rs1 rs2
  | .branch rs1 rs2 => layout (opcodeOfFormat .BRANCH) 0 rs1 rs2
  | .lui rd => layout (opcodeOfFormat .LUI) rd 0 0
  | .auipc rd => layout (opcodeOfFormat .AUIPC) rd 0 0
  | .unknown => layout (opcodeOfFormat .UNKNOWN) 0 0 0

/-- The bits the decoder ignores in a word of a format: the last column of R66. -/
def ignoredBits : Format → Word
  | .R => 0xFE007000
  | .I => 0xFFF07000
  | .LOAD => 0xFFF07000
  | .STORE => 0xFE007F80
  | .BRANCH => 0xFE007F80
  | .LUI => 0xFFFFF000
  | .AUIPC => 0xFFFFF000
  | .UNKNOWN => 0xFFFFFF80

end Sys2Proof
end

