-- ==== Sys2Proof/Machine/State.lean ====
section
/-! DEFINITION. The state of the block (R33, R40), the reasons a step can stop, and the state after reset.
State.reset is `Start(0, [])` of the default build (log entry 1). -/

namespace Sys2Proof.Machine

/-- The HazardTracker's table `A`: 32 availability cycles, indexed by register id (R21). Entry `A[r]` is the last cycle at
which register `r` is still not ready (R26). Register 0 is an ordinary entry (R28). -/
abbrev Tracker := Vector Cycle 32

/-- Everything the spec gives the block (R33, R40), under the spec's names. The current cycle is not a register (R34), and
there is no pc, flag, register value, memory or pipeline latch (R29, R37 to R39, R45). -/
structure State where
  /-- the input sequence, read-only for the run (R46) -/
  prog : List Entry
  /-- index of the instruction being scheduled; `i = n` means the run is over (R33) -/
  i : Nat
  /-- the decoder's output for `prog[i]` (R33) -/
  desc : Instr
  /-- the cells written so far for instruction `i` (R33) -/
  cur : Row
  /-- the next stage instruction `i` is to enter (R33, R115) -/
  nxt : Stage
  /-- the completed rows of instructions `0 .. i-1` (R33, R36) -/
  rows : List Row
  /-- the register availability table (R21) -/
  A : Tracker
  /-- FORWARDING: true means forwarding enabled; latched at Start (R30) -/
  forwarding : Bool
  /-- STORE_DATA_AVAIL_ANOMALY: the build's bit, not written by a run (R31) -/
  storeDataAvailAnomaly : Bool
  /-- 1 when `i = n` (R33) -/
  done : Bool
  deriving DecidableEq, Repr

/-- The block has no fault outcome: "No instruction and no input raises an exception" (R150), and the scheduler
"never fails" (R136). So no reason exists. -/
inductive Fault
  deriving DecidableEq, Repr

/-- Why an operation of the block is refused. -/
inductive Refusal where
  /-- Raised by an arm of `exec` for an instruction that has no meaning yet; safe. No arm raises it. -/
  | notModelled (mnemonic : String)
  /-- Raised by `step` when `done = 1`: "When `done = 1` the block has no step: the run is over" (R111); safe. DEDUCED (log entry 3). -/
  | runOver
  /-- Raised by `start` in a finite build whose MAX_INSTRS or CYCLE_BITS the sequence exceeds (D5, D18); safe. DEDUCED (log entry 5). -/
  | sequenceTooLong
  deriving DecidableEq, Repr

/-- The state right after reset with no run supplied: the values of R40 for the empty sequence.
DESIGN CHOICE: FORWARDING is 0 and `prog` empty, since no mode and no sequence were supplied (log entry 1); `desc`, which R40
calls unused when `n = 0`, is UNKNOWN (log entry 2). -/
def State.reset : State where
  prog := []
  i := 0
  desc := .unknown
  cur := []
  nxt := .IF
  rows := []
  A := Vector.replicate 32 0
  forwarding := false
  storeDataAvailAnomaly := false
  done := true

end Sys2Proof.Machine
end

