-- ==== Sys2Proof/Machine/Operands.lean ====
section
/-! DEFINITION. The registers an instruction reads and writes, and when: the tracker's ports, the check windows (R120), the
forwarding selection (R126). The block has no immediate and no other operand form (R68). -/

namespace Sys2Proof.Machine

/-- The tracker's read port `get(reg)` (R22). Register 0 has no special case (R28). -/
def trackerGet (A : Tracker) (r : RegId) : Cycle := A[r.val]

/-- The tracker's write port `set(reg, cycle)`: it overwrites, and takes no maximum (R23). -/
def trackerSet (A : Tracker) (r : RegId) (c : Cycle) : Tracker := A.set r.val c

/-- `A[r] <- c` for a register, or no write. -/
def setAvail (r : Option RegId) (c : Cycle) (A : Tracker) : Tracker :=
  match r with
  | some r => trackerSet A r c
  | none => A

/-- The tracker at the start of every run: 0 in every entry (R40). -/
def trackerReset : Tracker := Vector.replicate 32 0

/-- `need(d, s)`: the registers checked before entering a stage (R120). The STORE windows are the documented, reversed ones:
the data register `rs2` before EXE, the base `rs1` before MEM (R101, R102). -/
def need (d : Instr) (st : Stage) : List RegId :=
  match d, st with
  | .r _ rs1 rs2, .EXE => [rs1, rs2]
  | .branch rs1 rs2, .EXE => [rs1, rs2]
  | .i _ rs1, .EXE => [rs1]
  | .load _ rs1, .EXE => [rs1]
  | .store _ rs2, .EXE => [rs2]
  | .store rs1 _, .MEM => [rs1]
  | .lui _, .EXE => []
  | .auipc _, .EXE => []
  | .unknown, .EXE => []
  | .r _ _ _, .MEM => []
  | .branch _ _, .MEM => []
  | .i _ _, .MEM => []
  | .load _ _, .MEM => []
  | .lui _, .MEM => []
  | .auipc _, .MEM => []
  | .unknown, .MEM => []
  | _, .IF => []
  | _, .ID => []
  | _, .WB => []

/-- `availStage(FORWARDING, d)`: the stage at whose cycle the destination becomes available (R126). -/
def availStage (forwarding : Bool) (f : Format) : Option Stage :=
  match f, forwarding with
  | .R, false => some .WB
  | .R, true => some .EXE
  | .I, false => some .WB
  | .I, true => some .EXE
  | .LUI, false => some .WB
  | .LUI, true => some .EXE
  | .AUIPC, false => some .WB
  | .AUIPC, true => some .EXE
  | .LOAD, false => some .WB
  | .LOAD, true => some .MEM
  | .STORE, _ => none
  | .BRANCH, _ => none
  | .UNKNOWN, _ => none

/-- The register a STORE records at its MEM cycle when STORE_DATA_AVAIL_ANOMALY is 1: its data register
`sourceRegisters[1]` (R103, R127). No other class has one. -/
def anomalyRegister (d : Instr) : Option RegId :=
  match d with
  | .store _ rs2 => some rs2
  | .r _ _ _ => none
  | .i _ _ => none
  | .load _ _ => none
  | .branch _ _ => none
  | .lui _ => none
  | .auipc _ => none
  | .unknown => none

end Sys2Proof.Machine
end

