-- ==== Sys2Proof/Machine/Flags.lean ====
section
/-! DEFINITION. The block has no flags, condition codes or predicates (R38). The one-bit conditions a step computes are these:
the two hold conditions of R121. -/

namespace Sys2Proof.Machine

/-- `cellAt(row, c)`: the cell of cycle `c`, cycles counted from 1; `none` beyond the end (R13). Cycle 0 has no cell. -/
def cellAt (row : Row) (c : Cycle) : Option Cell :=
  match c with
  | 0 => none
  | k + 1 => row[k]?

/-- The candidate cycle of a step, `len(cur) + 1` (R116). -/
def candidateCycle (s : State) : Cycle := s.cur.length + 1

/-- The previous row reference `rows[i-1]`, defined when `i >= 1` (R34). -/
def prevRow (s : State) : Option Row :=
  match s.i with
  | 0 => none
  | k + 1 => s.rows[k]?

/-- `prevBubble(c)`: the instruction before holds in cycle `c` (R119). A label, a `BLANK` and a cycle beyond the row's end
are not a bubble, and instruction 0 never holds by propagation. -/
def prevBubble (s : State) (c : Cycle) : Bool :=
  (prevRow s).bind (cellAt · c) == some .bubble

/-- `ready(r, c) := A[r] < c` (R124); the strict test (C2), with the candidate cycle (D1). -/
def ready (A : Tracker) (r : RegId) (c : Cycle) : Bool := trackerGet A r < c

/-- A register of the check window for `nxt` is not ready (R121). -/
def dataHazard (d : Instr) (s : State) (c : Cycle) : Bool :=
  (need d s.nxt).any (fun r => !ready s.A r c)

end Sys2Proof.Machine
end

