-- ==== Sys2Proof/Machine/Ops.lean ====
section
/-! DEFINITION. The shared operations of the scheduler: writing a cell, recording availability, starting and finishing an
instruction, one step, and the start of a run. No operation takes an exception: the block has none (R150, R155). -/

namespace Sys2Proof.Machine

/-- `succ`: the stage after (R115). WB has none: the instruction finishes there. -/
def succStage (st : Stage) : Option Stage :=
  match st with
  | .IF => some .ID
  | .ID => some .EXE
  | .EXE => some .MEM
  | .MEM => some .WB
  | .WB => none

/-- `holdCell`: `BLANK` before the instruction's own IF, `"-"` afterward (R122). -/
def holdCell (st : Stage) : Cell :=
  match st with
  | .IF => .blank
  | .ID => .bubble
  | .EXE => .bubble
  | .MEM => .bubble
  | .WB => .bubble

/-- The cycle of a stage's label in a row, if the row has it: the first one, and a row has at most one (R115). -/
def labelCycle (st : Stage) (row : Row) : Option Cycle :=
  (row.findIdx? (· == .stage st)).map (· + 1)

/-- `IFcycle(row)` (R117). Every completed row has an IF cell (R137). DESIGN CHOICE: 0 for a row that has none, which no run
produces (log entry 7). -/
def ifCycle (row : Row) : Cycle := (labelCycle .IF row).getD 0

/-- `cur <- append(cur, x)` (R13). -/
def appendCell (x : Cell) (s : State) : State := { s with cur := s.cur ++ [x] }

/-- `A[r] <- c` for a register, or no write. -/
def writeAvail (r : Option RegId) (c : Cycle) (s : State) : State := { s with A := setAvail r c s.A }

/-- The destination entry `AvailWrite(d, s, c)` writes on entering stage `st`, by the forwarding selection (R127). With
forwarding the WB cell writes nothing (R129, C1). -/
def destinationWrite (d : Instr) (st : Stage) (forwarding : Bool) : Option RegId :=
  if availStage forwarding d.format = some st then d.destinationRegister else none

/-- The entry the STORE anomaly writes on entering stage `st` (R103, R127). -/
def anomalyWrite (d : Instr) (st : Stage) (anomaly : Bool) : Option RegId :=
  if anomaly = true ∧ st = .MEM then anomalyRegister d else none

/-- `AvailWrite(d, s, c)` (R127). -/
def availWrite (d : Instr) (st : Stage) (c : Cycle) (s : State) : State :=
  writeAvail (anomalyWrite d st s.storeDataAvailAnomaly) c
    (writeAvail (destinationWrite d st s.forwarding) c s)

/-- The padding `StartInstr` writes: none for instruction 0, else `BLANK` through the previous row's IF cycle (R117, R118). -/
def padding (s : State) : Row :=
  match prevRow s with
  | none => []
  | some row => List.replicate (ifCycle row) .blank

/-- `StartInstr(i)` for the entry `e = prog[i]` (R117). -/
def startInstr (e : Entry) (s : State) : State :=
  { s with desc := decode e, cur := padding s, nxt := .IF }

/-- `if i = n then done <- 1 else StartInstr(i)` (R133), and the same choice at the start of a run (R40, R110). -/
def startOrDone (s : State) : State :=
  match s.prog[s.i]? with
  | none => { s with done := true }
  | some e => startInstr e s

/-- `rows <- rows ++ [cur]; i <- i + 1` (R133). -/
def retire (s : State) : State := { s with rows := s.rows ++ [s.cur], i := s.i + 1 }

/-- `Finish()` (R133). After the last row, `desc`, `cur` and `nxt` keep their values (log entry 4). -/
def finish (s : State) : State := startOrDone (retire s)

/-- After the label of `nxt` is written: finish after WB, else move `nxt` on (R121, R115). -/
def leaveStage (s : State) : State :=
  match succStage s.nxt with
  | none => finish s
  | some st => { s with nxt := st }

/-- Enter stage `nxt` at cycle `c`: write its label, make the availability write, move on (R121). -/
def enterStage (d : Instr) (c : Cycle) (s : State) : State :=
  leaveStage (availWrite d s.nxt c (appendCell (.stage s.nxt) s))

/-- One `Step()` of the scheduler for an instruction with descriptor `d` (R121, R123). The readiness test reads the tracker
before the step's own write (R132). -/
def schedStep (d : Instr) (s : State) : State :=
  if prevBubble s (candidateCycle s) then appendCell (holdCell s.nxt) s
  else if dataHazard d s (candidateCycle s) then appendCell .bubble s
  else enterStage d (candidateCycle s) s

/-- The reset values of a run over `prog` before instruction 0 is started (R40, R170). -/
def freshState (anomaly forwarding : Bool) (prog : List Entry) : State where
  prog := prog
  i := 0
  desc := .unknown
  cur := []
  nxt := .IF
  rows := []
  A := trackerReset
  forwarding := forwarding
  storeDataAvailAnomaly := anomaly
  done := false

/-- `Start(mode, prog)` in a build with the given anomaly bit and no bound on sequences (R110): every state element at its
reset value, then instruction 0 started, or `done = 1` for an empty sequence (R134). -/
def startState (anomaly forwarding : Bool) (prog : List Entry) : State :=
  startOrDone (freshState anomaly forwarding prog)

/-- Whether a build takes a sequence of `n` entries: at most MAX_INSTRS (D18, I8), and CYCLE_BITS wide enough for the last
cycle `3n + 2` of a non-empty run (D5, I7, R142). DEDUCED: wide enough is `3n + 2 < 2 ^ CYCLE_BITS` (log entry 5). -/
def accepts (b : Config.Build) (n : Nat) : Bool :=
  (match b.maxInstrs with
    | none => true
    | some m => n ≤ m) &&
  (match b.cycleBits with
    | none => true
    | some k => n = 0 ∨ 3 * n + 2 < 2 ^ k)

/-- `Start(mode, prog)` of a build: a finite build refuses a sequence it cannot hold (D5, D18). -/
def start (b : Config.Build) (forwarding : Bool) (prog : List Entry) : Host.Outcome State Fault Refusal :=
  if accepts b prog.length then .next (startState b.storeDataAvailAnomaly forwarding prog)
  else .refused .sequenceTooLong

/-- The word put in as the instruction the next step runs: entry `i` becomes the word, and `StartInstr(i)` is done on it
(R117). The entry stands for the host's load of `prog` (log entry 4). DESIGN CHOICE: an instruction in progress is dropped. -/
def placeWord (s : State) (w : Word) : State :=
  startInstr (.word w) { s with prog := s.prog.take s.i ++ .word w :: s.prog.drop (s.i + 1), done := false }

end Sys2Proof.Machine
end

