-- ==== Sys2Proof/Machine/AluClasses.lean ====
section
/-! DEFINITION. The computational classes R, I, LUI and AUIPC (41_alu_formats.md): one step of the scheduler for each. -/

namespace Sys2Proof.Machine

/-- Class R (R90): `rs1` and `rs2` checked before EXE; `rd` available at EXE with forwarding, at WB without. -/
def execR (rd rs1 rs2 : RegId) (s : State) : Host.Outcome State Fault Refusal :=
  .next (schedStep (.r rd rs1 rs2) s)

/-- Class I (R91): `rs1` checked before EXE; `rd` available at EXE with forwarding, at WB without. -/
def execI (rd rs1 : RegId) (s : State) : Host.Outcome State Fault Refusal :=
  .next (schedStep (.i rd rs1) s)

/-- Class LUI (R92): no register checked; `rd` available at EXE with forwarding, at WB without. -/
def execLui (rd : RegId) (s : State) : Host.Outcome State Fault Refusal :=
  .next (schedStep (.lui rd) s)

/-- Class AUIPC (R93): a destination-only timing class exactly like LUI; there is no pc (R37). -/
def execAuipc (rd : RegId) (s : State) : Host.Outcome State Fault Refusal :=
  .next (schedStep (.auipc rd) s)

end Sys2Proof.Machine
end

