-- ==== Sys2Proof/Machine/BranchUnknown.lean ====
section
/-! DEFINITION. The classes BRANCH and UNKNOWN (43_branch_unknown.md). -/

namespace Sys2Proof.Machine

/-- Class BRANCH (R105): `rs1` and `rs2` checked before EXE; no tracker write and no control transfer (R37). -/
def execBranch (rs1 rs2 : RegId) (s : State) : Host.Outcome State Fault Refusal :=
  .next (schedStep (.branch rs1 rs2) s)

/-- Class UNKNOWN (R106): all five stages, no register check, no tracker write; the structural rules apply (R107). -/
def execUnknown (s : State) : Host.Outcome State Fault Refusal :=
  .next (schedStep .unknown s)

end Sys2Proof.Machine
end

