-- ==== Sys2Proof/Machine/MemoryClasses.lean ====
section
/-! DEFINITION. The memory classes LOAD and STORE (42_memory_formats.md). They are timing classes: no memory is read or
written (R45). -/

namespace Sys2Proof.Machine

/-- Class LOAD (R100): `rs1` checked before EXE; `rd` available at MEM with forwarding, at WB without. -/
def execLoad (rd rs1 : RegId) (s : State) : Host.Outcome State Fault Refusal :=
  .next (schedStep (.load rd rs1) s)

/-- Class STORE (R101 to R103): `rs2` checked before EXE and `rs1` before MEM; no destination; with
STORE_DATA_AVAIL_ANOMALY the data register's entry takes the MEM cycle. -/
def execStore (rs1 rs2 : RegId) (s : State) : Host.Outcome State Fault Refusal :=
  .next (schedStep (.store rs1 rs2) s)

end Sys2Proof.Machine
end

