-- ==== Sys2Proof/Machine/Dispatch.lean ====
section
/-! DEFINITION. One step of the scheduler for each row of the opcode table. -/

namespace Sys2Proof.Machine

def exec (i : Instr) (s : State) : Host.Outcome State Fault Refusal :=
  match i with
  | .r rd rs1 rs2 => Sys2Proof.Machine.execR rd rs1 rs2 s
  | .i rd rs1 => Sys2Proof.Machine.execI rd rs1 s
  | .load rd rs1 => Sys2Proof.Machine.execLoad rd rs1 s
  | .store rs1 rs2 => Sys2Proof.Machine.execStore rs1 rs2 s
  | .branch rs1 rs2 => Sys2Proof.Machine.execBranch rs1 rs2 s
  | .lui rd => Sys2Proof.Machine.execLui rd s
  | .auipc rd => Sys2Proof.Machine.execAuipc rd s
  | .unknown => Sys2Proof.Machine.execUnknown s

end Sys2Proof.Machine
end

