-- ==== Sys2Proof/Machine/Step.lean ====
section
/-! DEFINITION. One transaction of the block: `Step()` (R111, R121). -/

namespace Sys2Proof.Machine

/-- `Step()`: enabled exactly when `done = 0`; it writes one cell for the instruction being scheduled, whose descriptor is
`desc` (R111, R121). When `done = 1` the block has no step: refused by name (log entry 3). -/
def step (s : State) : Host.Outcome State Fault Refusal :=
  if s.done then .refused .runOver else exec s.desc s

/-- The state with a word of the opcode table as the instruction the very next step runs. Every bit above `nbits` is 0. -/
def State.withFetchWord (s : State) (nbits w : Nat) : State :=
  placeWord s (BitVec.ofNat 32 (w % 2 ^ nbits))

end Sys2Proof.Machine
end

