-- ==== Sys2Proof/Machine/ClosedForm.lean ====
section
/-! DEFINITION. The closed form of R138, by which the spec says a model may check itself. The step does not use it; a claim says
that the two agree. -/

namespace Sys2Proof.Machine

/-- The cycles of the five labels of one row (R138). -/
structure Timing where
  IF : Cycle
  ID : Cycle
  EXE : Cycle
  MEM : Cycle
  WB : Cycle
  deriving DecidableEq, Repr

/-- `max({base} ∪ { A[r] + 1 : r in rs })` (R138). -/
def maxReady (base : Cycle) (A : Tracker) (rs : List RegId) : Cycle :=
  rs.foldl (fun m r => max m (trackerGet A r + 1)) base

/-- The recurrences of R138 for one instruction, from the row before it (if any) and the tracker when it starts. -/
def timingOf (prev : Option Timing) (A : Tracker) (d : Instr) : Timing :=
  let fetched := match prev with
    | none => 1
    | some p => p.ID
  let decoded := match prev with
    | none => 2
    | some p => p.EXE
  let base := match prev with
    | none => 3
    | some p => p.MEM
  let exe := maxReady base A (need d .EXE)
  let mem := maxReady (exe + 1) A (need d .MEM)
  { IF := fetched, ID := decoded, EXE := exe, MEM := mem, WB := mem + 1 }

/-- The cycle at which an instruction with these timings records its destination, if it does (R126). -/
def availCycle (t : Timing) (st : Option Stage) : Cycle :=
  match st with
  | some .IF => t.IF
  | some .ID => t.ID
  | some .EXE => t.EXE
  | some .MEM => t.MEM
  | some .WB => t.WB
  | none => 0

/-- `A_(i+1)`: the tracker after an instruction, "with the writes of rule R127 at the cycles above" (R138). An instruction
makes at most one of the two writes: a STORE has no destination (R101). -/
def trackerAfter (anomaly forwarding : Bool) (d : Instr) (t : Timing) (A : Tracker) : Tracker :=
  setAvail (if anomaly then anomalyRegister d else none) t.MEM
    (setAvail (if (availStage forwarding d.format).isSome then d.destinationRegister else none)
      (availCycle t (availStage forwarding d.format)) A)

/-- The timings of a sequence and the tracker after it, from a given row and tracker on (R138). -/
def closedFormFrom (anomaly forwarding : Bool) (prev : Option Timing) (A : Tracker) :
    List Instr → List Timing × Tracker
  | [] => ([], A)
  | d :: ds =>
    let t := timingOf prev A d
    let rest := closedFormFrom anomaly forwarding (some t) (trackerAfter anomaly forwarding d t A) ds
    (t :: rest.1, rest.2)

/-- The closed form of a whole run (R138). -/
def closedForm (anomaly forwarding : Bool) (prog : List Entry) : List Timing × Tracker :=
  closedFormFrom anomaly forwarding none trackerReset (prog.map decode)

/-- The row with these label cycles: `BLANK` before IF, `"-"` between labels, nothing after WB (R137). -/
def rowOfTiming (t : Timing) : Row :=
  List.replicate (t.IF - 1) Cell.blank ++ Cell.stage .IF ::
    (List.replicate (t.ID - t.IF - 1) Cell.bubble ++ Cell.stage .ID ::
      (List.replicate (t.EXE - t.ID - 1) Cell.bubble ++ Cell.stage .EXE ::
        (List.replicate (t.MEM - t.EXE - 1) Cell.bubble ++ Cell.stage .MEM ::
          (List.replicate (t.WB - t.MEM - 1) Cell.bubble ++ [Cell.stage .WB]))))

end Sys2Proof.Machine
end

