-- ==== Sys2Proof/Safety.lean ====
section
/-! DEFINITION. The terms in which claims are stated: runs, states a run reaches, the shape of a row, the invariant of a state. -/

namespace Sys2Proof

open Sys2Proof.Machine

/-- "call `Step()` until `done = 1`" (R173), taking at most the given number of steps. -/
def runUntilDone : Nat → State → Host.Outcome State Fault Refusal
  | 0, s => .next s
  | k + 1, s =>
    if s.done then .next s
    else
      match step s with
      | .next t => runUntilDone k t
      | .fault f => .fault f
      | .refused x => .refused x

/-- A number of steps that is enough for `n` entries: `n` rows of at most `3n + 2` cells each (R142). -/
def stepBound (n : Nat) : Nat := n * (3 * n + 2)

/-- The host's use of the block: `Start(mode, prog)`, then `Step()` until `done = 1` (R173). -/
def hostRun (anomaly forwarding : Bool) (prog : List Entry) : Host.Outcome State Fault Refusal :=
  runUntilDone (stepBound prog.length) (startState anomaly forwarding prog)

/-- A state that some number of steps reaches from `Start(mode, prog)`, in a build with the given anomaly bit. -/
def ReachableFrom (anomaly forwarding : Bool) (prog : List Entry) (s : State) : Prop :=
  ∃ k, Host.Core.run core k (startState anomaly forwarding prog) = Host.Outcome.next s

/-- A state of some run, whatever its build, mode and sequence. -/
def Reachable (s : State) : Prop :=
  ∃ anomaly forwarding prog, ReachableFrom anomaly forwarding prog s

/-- Stall propagation, said of the state without the model's own test: instruction `i >= 1`, and the row before it has a
bubble at the candidate cycle (R119), which is position `len(cur)` counted from 0. -/
abbrev PrevHolds (s : State) : Prop :=
  1 ≤ s.i ∧ (s.rows[s.i - 1]?.bind (fun row => row[s.cur.length]?)) = some Cell.bubble

/-- The shape of a completed row, in the words of R137. -/
def RowShape (row : Row) : Prop :=
  ∃ a b c d e : Nat, row =
    List.replicate a Cell.blank ++ Cell.stage .IF ::
      (List.replicate b Cell.bubble ++ Cell.stage .ID ::
        (List.replicate c Cell.bubble ++ Cell.stage .EXE ::
          (List.replicate d Cell.bubble ++ Cell.stage .MEM ::
            (List.replicate e Cell.bubble ++ [Cell.stage .WB]))))

/-- Reading a row cell by cell: the stage it waits to enter (`some (some st)`), or finished after WB (`some none`), or not a
row (`none`). The first cell out of place is final (R115, R122, R137). -/
def scanCell (at' : Option (Option Stage)) (x : Cell) : Option (Option Stage) :=
  match at', x with
  | some (some .IF), .blank => some (some .IF)
  | some (some st), .stage st' => if st = st' then some (succStage st) else none
  | some (some .ID), .bubble => some (some .ID)
  | some (some .EXE), .bubble => some (some .EXE)
  | some (some .MEM), .bubble => some (some .MEM)
  | some (some .WB), .bubble => some (some .WB)
  | _, _ => none

/-- The stage a row waits to enter after all its cells. -/
def scanRow (row : Row) : Option (Option Stage) := row.foldl scanCell (some (some .IF))

/-- The invariant of a state: index, length and `done` agree (R33); `desc` is the decoder's output for `prog[i]`; every
completed row is complete and the current one is written up to the stage before `nxt` (R123, R137); every tracker entry is a
cycle some row has reached (R142). -/
abbrev StateInv (s : State) : Prop :=
  s.i ≤ s.prog.length ∧ s.rows.length = s.i ∧ (s.done = true ↔ s.i = s.prog.length) ∧
    (s.done = false → (s.prog[s.i]?).map decode = some s.desc) ∧
    (∀ row ∈ s.rows, scanRow row = some none) ∧
    (s.done = false → scanRow s.cur = some (some s.nxt)) ∧
    (∀ r : RegId, ∃ row ∈ s.cur :: s.rows, trackerGet s.A r ≤ row.length)

/-- The rows of a state in program order, the one being written included while the run goes on. -/
def rowsSoFar (s : State) : List Row := if s.done then s.rows else s.rows ++ [s.cur]

/-- The bubble cells of a row: the `"-"` cells only (D16). -/
def bubbles (row : Row) : Nat := row.count Cell.bubble

/-- The number of bubbles between the labels of two stages of a row, `0` if a label is missing. -/
def bubblesBetween (row : Row) (st st' : Stage) : Nat :=
  match labelCycle st row, labelCycle st' row with
  | some c, some c' => bubbles ((row.take (c' - 1)).drop c)
  | _, _ => 0

end Sys2Proof
end

