-- ==== Sys2Proof/Certificates/Slice0/Obligations.lean ====
section
/-! DEFINITION. The statements for the provers. Each docstring names the rule of the spec it formalises. `s.cur.length + 1` is the
candidate cycle of a step (R116) throughout. -/

open Sys2Proof Sys2Proof.Machine

/-! ### The decoder and the encoder -/

/-- Decoding the encoding of a well-formed instruction gives it back, with every operand (R61 to R66). -/
def Obligations.DecodeOfEncodeIsTheInstruction : Prop :=
  ∀ i : Instr, i.wellFormed = true →
    decode (.word (encode i)) = i ∧ decodeTableWord 32 (encode i).toNat = some i

/-- Encoding what a word decodes to gives the word with the ignored bits of its format cleared (R66); an UNKNOWN word gives the
zero word, the model's choice of an UNKNOWN word (log entry 8). -/
def Obligations.EncodeOfDecodeKeepsTheReadBits : Prop :=
  ∀ w : Word,
    (decode (.word w) ≠ .unknown →
      encode (decode (.word w)) = w &&& ~~~ (ignoredBits (decode (.word w)).format)) ∧
    (decode (.word w) = .unknown → encode (decode (.word w)) = 0)

/-- A change to any ignored bit leaves the descriptor unchanged: the spec's own inference in section 2 of 30_encoding.md. -/
def Obligations.IgnoredBitsLeaveTheDescriptorUnchanged : Prop :=
  ∀ w w' : Word,
    w &&& ~~~ (ignoredBits (decode (.word w)).format) = w' &&& ~~~ (ignoredBits (decode (.word w)).format) →
      (decode (.word w')).descriptor = (decode (.word w)).descriptor

/-- The format is determined by the seven low-order bits alone, by the document's map and its default. The last seven clauses,
on words alone, are the mask and match columns, which the spec marks as its own conversion in section 1 of 30_encoding.md. -/
def Obligations.OpcodeMapChoosesTheFormat : Prop :=
  ∀ w : Word,
    ((decode (.word w)).format = .R ↔ w.extractLsb' 0 7 = 0b0110011) ∧
    ((decode (.word w)).format = .I ↔ w.extractLsb' 0 7 = 0b0010011) ∧
    ((decode (.word w)).format = .LOAD ↔ w.extractLsb' 0 7 = 0b0000011) ∧
    ((decode (.word w)).format = .STORE ↔ w.extractLsb' 0 7 = 0b0100011) ∧
    ((decode (.word w)).format = .BRANCH ↔ w.extractLsb' 0 7 = 0b1100011) ∧
    ((decode (.word w)).format = .LUI ↔ w.extractLsb' 0 7 = 0b0110111) ∧
    ((decode (.word w)).format = .AUIPC ↔ w.extractLsb' 0 7 = 0b0010111) ∧
    ((decode (.word w)).format = .UNKNOWN ↔
      w.extractLsb' 0 7 ∉
        ([0b0110011, 0b0010011, 0b0000011, 0b0100011, 0b1100011, 0b0110111, 0b0010111] : List (BitVec 7))) ∧
    (w &&& 0x0000007F = 0x00000033 ↔ w.extractLsb' 0 7 = 0b0110011) ∧
    (w &&& 0x0000007F = 0x00000013 ↔ w.extractLsb' 0 7 = 0b0010011) ∧
    (w &&& 0x0000007F = 0x00000003 ↔ w.extractLsb' 0 7 = 0b0000011) ∧
    (w &&& 0x0000007F = 0x00000023 ↔ w.extractLsb' 0 7 = 0b0100011) ∧
    (w &&& 0x0000007F = 0x00000063 ↔ w.extractLsb' 0 7 = 0b1100011) ∧
    (w &&& 0x0000007F = 0x00000037 ↔ w.extractLsb' 0 7 = 0b0110111) ∧
    (w &&& 0x0000007F = 0x00000017 ↔ w.extractLsb' 0 7 = 0b0010111)

/-- R63 to R65: the destination and source fields, written as quotients of the word's value, and the lists each format puts
them in (R66). -/
def Obligations.DescriptorCarriesTheFieldsOfItsFormat : Prop :=
  ∀ w : Word,
    let rd : RegId := Fin.ofNat 32 (w.toNat / 2 ^ 7)
    let rs1 : RegId := Fin.ofNat 32 (w.toNat / 2 ^ 15)
    let rs2 : RegId := Fin.ofNat 32 (w.toNat / 2 ^ 20)
    let d := (decode (.word w)).descriptor
    let op := w.toNat % 128
    (op = 0b0110011 → d = ⟨.R, [rs1, rs2], some rd⟩) ∧
    (op = 0b0010011 → d = ⟨.I, [rs1], some rd⟩) ∧
    (op = 0b0000011 → d = ⟨.LOAD, [rs1], some rd⟩) ∧
    (op = 0b0100011 → d = ⟨.STORE, [rs1, rs2], none⟩) ∧
    (op = 0b1100011 → d = ⟨.BRANCH, [rs1, rs2], none⟩) ∧
    (op = 0b0110111 → d = ⟨.LUI, [], some rd⟩) ∧
    (op = 0b0010111 → d = ⟨.AUIPC, [], some rd⟩) ∧
    (op ∉ [0b0110011, 0b0010011, 0b0000011, 0b0100011, 0b1100011, 0b0110111, 0b0010111] →
      d = ⟨.UNKNOWN, [], none⟩)

/-- An `Invalid` entry decodes like an unrecognised word: the spec's own decision D4. -/
def Obligations.InvalidEntryDecodesLikeAnUnrecognisedWord : Prop :=
  (decode .invalid).descriptor = ⟨.UNKNOWN, [], none⟩ ∧
  ∀ w : Word, (decode (.word w)).format = .UNKNOWN → decode (.word w) = decode .invalid

/-- Every other opcode is UNKNOWN with no registers, and such a word raises nothing. The RISC-V opcodes named are the spec's
general knowledge (G5), and the clause on the two low bits its inference. -/
def Obligations.UnrecognisedOpcodesAreUnknown : Prop :=
  (∀ w : Word,
    w.toNat % 128 ∉ [0b0110011, 0b0010011, 0b0000011, 0b0100011, 0b1100011, 0b0110111, 0b0010111] →
      (decode (.word w)).descriptor = ⟨.UNKNOWN, [], none⟩ ∧
      ∀ s, ∃ t, exec (decode (.word w)) s = .next t) ∧
  ((List.range 128).filter (fun op => formatOfOpcode op = .UNKNOWN)).length = 121 ∧
  (∀ w : Word, w.toNat % 128 ∈ [0b1101111, 0b1100111, 0b0001111, 0b1110011, 0b0101111] →
    decode (.word w) = .unknown) ∧
  (∀ w : Word, w.toNat % 4 ≠ 3 → decode (.word w) = .unknown) ∧
  decode (.word 0x00000000) = .unknown ∧ decode (.word 0xFFFFFFFF) = .unknown

/-- Words written out bit by bit from the encodings of R66, one for each class, decode to their instructions. -/
def Obligations.WrittenOutWordsDecode : Prop :=
  -- funct7 rs2 rs1 funct3 rd opcode
  decode (.word 0b1111111_11011_01110_111_10001_0110011) = .r 17 14 27 ∧
  decode (.word 0b1111111_11011_01110_111_10001_0010011) = .i 17 14 ∧
  decode (.word 0b1111111_11011_01110_111_10001_0000011) = .load 17 14 ∧
  decode (.word 0b1111111_11011_01110_111_10001_0100011) = .store 14 27 ∧
  decode (.word 0b1111111_11011_01110_111_10001_1100011) = .branch 14 27 ∧
  decode (.word 0b1111111_11011_01110_111_10001_0110111) = .lui 17 ∧
  decode (.word 0b1111111_11011_01110_111_10001_0010111) = .auipc 17 ∧
  decode (.word 0b0000000_00000_00000_000_00001_1101111) = .unknown

/-- The port-level wires: the 3-bit format code (the spec's decision D6) and the others (D7), each 0 where the descriptor does
not carry it. -/
def Obligations.PortWiresShowTheDescriptor : Prop :=
  ∀ e : Entry,
    (decoderWires e).format =
      (match (decode e).format with
        | .R => 0
        | .I => 1
        | .LOAD => 2
        | .STORE => 3
        | .BRANCH => 4
        | .LUI => 5
        | .AUIPC => 6
        | .UNKNOWN => 7) ∧
    ((decoderWires e).valid = false ↔ e = .invalid) ∧
    (decoderWires e).nsrc.toNat = (decode e).sourceRegisters.length ∧
    (decoderWires e).src0.toNat = ((decode e).sourceRegisters[0]?.map Fin.val).getD 0 ∧
    (decoderWires e).src1.toNat = ((decode e).sourceRegisters[1]?.map Fin.val).getD 0 ∧
    (decoderWires e).destValid = (decode e).destinationRegister.isSome ∧
    (decoderWires e).dest.toNat = ((decode e).destinationRegister.map Fin.val).getD 0

/-! ### The tracker's ports, Start and Step -/

/-- R23: `set` overwrites one entry unconditionally and takes no maximum; hence it is idempotent. -/
def Obligations.TrackerSetOverwritesOneEntry : Prop :=
  ∀ (A : Tracker) (r : RegId) (c : Cycle),
    trackerGet (trackerSet A r c) r = c ∧
    (∀ r', r' ≠ r → trackerGet (trackerSet A r c) r' = trackerGet A r') ∧
    trackerSet (trackerSet A r c) r c = trackerSet A r c ∧
    trackerSet A r (trackerGet A r) = A

/-- At the start of every run each state element has its reset value; the anomaly bit is the build's, by the spec's decision
D3. -/
def Obligations.StartPutsEveryElementAtItsResetValue : Prop :=
  Config.Build.default.storeDataAvailAnomaly = false ∧
  ∀ (b : Config.Build) (forwarding : Bool) (prog : List Entry), accepts b prog.length = true →
    ∃ s, start b forwarding prog = .next s ∧
      (∀ r, trackerGet s.A r = 0) ∧ s.forwarding = forwarding ∧
      s.storeDataAvailAnomaly = b.storeDataAvailAnomaly ∧ s.prog = prog ∧ s.i = 0 ∧ s.rows = [] ∧ s.cur = [] ∧
      s.nxt = .IF ∧ (∀ e, prog[0]? = some e → s.desc = decode e) ∧ (s.done = true ↔ prog = [])

/-- The model's choices of log entries 1 and 2: the reset state is a started run over no entry, in the default build with
forwarding off, and its unused `desc` is UNKNOWN. -/
def Obligations.ResetIsTheStartOfAnEmptyRun : Prop :=
  start Config.Build.default false [] = .next State.reset ∧ State.reset.desc = .unknown ∧ State.reset.done = true

/-- D5, D18 and log entry 5: a finite build refuses exactly the sequences it cannot hold. -/
def Obligations.FiniteBuildRefusesLongSequences : Prop :=
  ∀ (b : Config.Build) (forwarding : Bool) (prog : List Entry),
    start b forwarding prog = .refused .sequenceTooLong ↔
      (∃ m, b.maxInstrs = some m ∧ m < prog.length) ∨
      (∃ k, b.cycleBits = some k ∧ prog ≠ [] ∧ 2 ^ k ≤ 3 * prog.length + 2)

/-- `Step` is enabled exactly when `done = 0`, and writes exactly one cell into `cur`: the transaction interface the spec decides
in D7. That a step not enabled is refused is log entry 3. -/
def Obligations.StepIsEnabledExactlyUntilDone : Prop :=
  ∀ s : State,
    ((∃ t, step s = .next t) ↔ s.done = false) ∧
    (∀ t, step s = .next t → ∃ x : Cell,
      (t.cur = s.cur ++ [x] ∧ t.rows = s.rows) ∨ t.rows = s.rows ++ [s.cur ++ [x]])

/-- When `done = 1` the step is refused by name: the model's rendering of "the block has no step" (log entry 3). -/
def Obligations.StepAfterDoneIsRefused : Prop :=
  ∀ s : State, s.done = true → step s = .refused .runOver

/-- A step runs the instruction that entry `prog[i]` decodes to, with nothing around it. -/
def Obligations.StepRunsTheDecodedEntry : Prop :=
  ∀ (s : State) (e : Entry), StateInv s → s.done = false → s.prog[s.i]? = some e → step s = exec (decode e) s

/-- The word that `withFetchWord` places is the instruction the very next step runs, from any state. All of this is the model's
choice, log entry 4 (DESIGN CHOICE), no rule of the spec: `withFetchWord` stands for the host's load of the sequence, an
instruction in progress is dropped (its row is lost: `cur` is the padding of a row just started) and `done` is cleared. Besides
`desc`, `cur`, `nxt`, `done` and entry `i` of the sequence nothing changes; in a state whose index is past the end of the
sequence, which no run reaches, the word is appended. -/
def Obligations.PlacedWordIsRunByTheNextStep : Prop :=
  ∀ (s : State) (w : Word),
    let p := s.withFetchWord 32 w.toNat
    step p = exec (decode (.word w)) p ∧
    p.desc = decode (.word w) ∧ p.cur = padding s ∧ p.nxt = .IF ∧ p.done = false ∧
    p.A = s.A ∧ p.rows = s.rows ∧ p.i = s.i ∧ p.forwarding = s.forwarding ∧
    p.storeDataAvailAnomaly = s.storeDataAvailAnomaly ∧
    (s.i ≤ s.prog.length → p.prog[s.i]? = some (.word w) ∧ ∀ j, j ≠ s.i → p.prog[j]? = s.prog[j]?) ∧
    (s.prog.length < s.i → p.prog = s.prog ++ [.word w])

/-- R136: no instruction has a fault or error outcome, in any state. -/
def Obligations.EveryInstructionAnswersNext : Prop :=
  ∀ (i : Instr) (s : State), ∃ t, exec i s = .next t

/-! ### Scheduling, all classes -/

/-- R119 and R122: when the previous row has a bubble at the candidate cycle, every class at every stage holds, writing `BLANK`
before its IF and `"-"` afterward; when it has none, an instruction that has not entered IF enters it. -/
def Obligations.StallPropagationHoldsEveryClass : Prop :=
  ∀ (i : Instr) (s : State),
    (PrevHolds s →
      exec i s = .next { s with cur := s.cur ++ [if s.nxt = .IF then Cell.blank else Cell.bubble] }) ∧
    (¬ PrevHolds s → s.nxt = .IF →
      exec i s = .next { s with cur := s.cur ++ [Cell.stage .IF], nxt := .ID })

/-- R121: one step of the scheduler, as the table of the stage-occupancy state machine, for every class. -/
def Obligations.StageMachineFollowsItsTable : Prop :=
  ∀ (i : Instr) (s : State),
    let c := s.cur.length + 1
    let hazard := ∃ r ∈ need i s.nxt, ready s.A r c = false
    ((PrevHolds s ∨ hazard) → exec i s = .next { s with cur := s.cur ++ [if s.nxt = .IF then Cell.blank else Cell.bubble] }) ∧
    (hazard → s.nxt = .EXE ∨ s.nxt = .MEM) ∧
    (¬ (PrevHolds s ∨ hazard) →
      (s.nxt = .IF → exec i s = .next { s with cur := s.cur ++ [Cell.stage .IF], nxt := .ID }) ∧
      (s.nxt = .ID → exec i s = .next { s with cur := s.cur ++ [Cell.stage .ID], nxt := .EXE }) ∧
      (s.nxt = .EXE →
        exec i s = .next { availWrite i .EXE c s with cur := s.cur ++ [Cell.stage .EXE], nxt := .MEM }) ∧
      (s.nxt = .MEM →
        exec i s = .next { availWrite i .MEM c s with cur := s.cur ++ [Cell.stage .MEM], nxt := .WB }) ∧
      (s.nxt = .WB →
        exec i s = .next (finish { availWrite i .WB c s with cur := s.cur ++ [Cell.stage .WB] })))

/-- R120: which registers each class is held on, before which stage. -/
def Obligations.CheckWindowsHoldOnTheirRegisters : Prop :=
  ∀ s : State, ¬ PrevHolds s →
    let ok := fun r : RegId => ready s.A r (s.cur.length + 1) = true
    let held := fun i : Instr => exec i s = .next { s with cur := s.cur ++ [Cell.bubble] }
    (∀ rd rs1 rs2, held (.r rd rs1 rs2) ↔ s.nxt = .EXE ∧ ¬ (ok rs1 ∧ ok rs2)) ∧
    (∀ rs1 rs2, held (.branch rs1 rs2) ↔ s.nxt = .EXE ∧ ¬ (ok rs1 ∧ ok rs2)) ∧
    (∀ rd rs1, held (.i rd rs1) ↔ s.nxt = .EXE ∧ ¬ ok rs1) ∧
    (∀ rd rs1, held (.load rd rs1) ↔ s.nxt = .EXE ∧ ¬ ok rs1) ∧
    (∀ rs1 rs2, held (.store rs1 rs2) ↔ (s.nxt = .EXE ∧ ¬ ok rs2) ∨ (s.nxt = .MEM ∧ ¬ ok rs1)) ∧
    (∀ rd, ¬ held (.lui rd)) ∧ (∀ rd, ¬ held (.auipc rd)) ∧ ¬ held .unknown

/-- On entering a stage, exactly the write of the forwarding selection in section 4 of 45_scheduler.md is made; and that of a
STORE with the anomaly bit, whose cycle and modes are the spec's decision D3 (log entry 9). -/
def Obligations.AvailabilityFollowsTheForwardingSelection : Prop :=
  ∀ (i : Instr) (s : State), ¬ PrevHolds s →
    (∀ r ∈ need i s.nxt, ready s.A r (s.cur.length + 1) = true) →
      ∃ t, exec i s = .next t ∧
        t.A =
          (match i with
            | .r rd _ _ => if s.nxt = (if s.forwarding then .EXE else .WB) then trackerSet s.A rd (s.cur.length + 1) else s.A
            | .i rd _ => if s.nxt = (if s.forwarding then .EXE else .WB) then trackerSet s.A rd (s.cur.length + 1) else s.A
            | .lui rd => if s.nxt = (if s.forwarding then .EXE else .WB) then trackerSet s.A rd (s.cur.length + 1) else s.A
            | .auipc rd => if s.nxt = (if s.forwarding then .EXE else .WB) then trackerSet s.A rd (s.cur.length + 1) else s.A
            | .load rd _ => if s.nxt = (if s.forwarding then .MEM else .WB) then trackerSet s.A rd (s.cur.length + 1) else s.A
            | .store _ rs2 =>
              if s.storeDataAvailAnomaly = true ∧ s.nxt = .MEM then trackerSet s.A rs2 (s.cur.length + 1) else s.A
            | .branch _ _ => s.A
            | .unknown => s.A)

/-- After the WB cell the row is appended; then the run is over, or the next entry is decoded and padded with `BLANK` through
the IF cycle of the row just completed (sections 2 and 5 of 45_scheduler.md). That `desc`, `cur` and `nxt` keep their values when
the run is over is the model's choice (log entry 4). -/
def Obligations.FinishAppendsTheRowAndStartsTheNext : Prop :=
  ∀ (s : State) (c : Cycle), s.rows.length = s.i → 1 ≤ c → (∀ k, s.cur[k]? = some (Cell.stage .IF) ↔ k + 1 = c) →
    (s.i + 1 = s.prog.length →
      finish s = { s with rows := s.rows ++ [s.cur], i := s.i + 1, done := true }) ∧
    (∀ e, s.prog[s.i + 1]? = some e →
      finish s =
        { s with
          rows := s.rows ++ [s.cur], i := s.i + 1, desc := decode e, cur := List.replicate c Cell.blank, nxt := .IF })

/-! ### The classes: what one step of each gives -/

/-- Class R at every stage (R90). -/
def Obligations.ClassRAtEveryStage : Prop :=
  ∀ (rd rs1 rs2 : RegId) (s : State), ¬ PrevHolds s →
    (s.nxt = .IF → exec (.r rd rs1 rs2) s = .next { s with cur := s.cur ++ [Cell.stage .IF], nxt := .ID }) ∧
    (s.nxt = .ID → exec (.r rd rs1 rs2) s = .next { s with cur := s.cur ++ [Cell.stage .ID], nxt := .EXE }) ∧
    (s.nxt = .EXE → trackerGet s.A rs1 < s.cur.length + 1 → trackerGet s.A rs2 < s.cur.length + 1 →
      exec (.r rd rs1 rs2) s = .next { s with
        cur := s.cur ++ [Cell.stage .EXE], nxt := .MEM
        A := if s.forwarding then trackerSet s.A rd (s.cur.length + 1) else s.A }) ∧
    (s.nxt = .EXE → (s.cur.length + 1 ≤ trackerGet s.A rs1 ∨ s.cur.length + 1 ≤ trackerGet s.A rs2) →
      exec (.r rd rs1 rs2) s = .next { s with cur := s.cur ++ [Cell.bubble] }) ∧
    (s.nxt = .MEM → exec (.r rd rs1 rs2) s = .next { s with cur := s.cur ++ [Cell.stage .MEM], nxt := .WB }) ∧
    (s.nxt = .WB → exec (.r rd rs1 rs2) s = .next (finish { s with
        cur := s.cur ++ [Cell.stage .WB]
        A := if s.forwarding then s.A else trackerSet s.A rd (s.cur.length + 1) }))

/-- Class I at every stage (R91). -/
def Obligations.ClassIAtEveryStage : Prop :=
  ∀ (rd rs1 : RegId) (s : State), ¬ PrevHolds s →
    (s.nxt = .IF → exec (.i rd rs1) s = .next { s with cur := s.cur ++ [Cell.stage .IF], nxt := .ID }) ∧
    (s.nxt = .ID → exec (.i rd rs1) s = .next { s with cur := s.cur ++ [Cell.stage .ID], nxt := .EXE }) ∧
    (s.nxt = .EXE → trackerGet s.A rs1 < s.cur.length + 1 →
      exec (.i rd rs1) s = .next { s with
        cur := s.cur ++ [Cell.stage .EXE], nxt := .MEM
        A := if s.forwarding then trackerSet s.A rd (s.cur.length + 1) else s.A }) ∧
    (s.nxt = .EXE → s.cur.length + 1 ≤ trackerGet s.A rs1 →
      exec (.i rd rs1) s = .next { s with cur := s.cur ++ [Cell.bubble] }) ∧
    (s.nxt = .MEM → exec (.i rd rs1) s = .next { s with cur := s.cur ++ [Cell.stage .MEM], nxt := .WB }) ∧
    (s.nxt = .WB → exec (.i rd rs1) s = .next (finish { s with
        cur := s.cur ++ [Cell.stage .WB]
        A := if s.forwarding then s.A else trackerSet s.A rd (s.cur.length + 1) }))

/-- Class LOAD at every stage (R100): with forwarding the destination becomes available at MEM, not at EXE. -/
def Obligations.ClassLoadAtEveryStage : Prop :=
  ∀ (rd rs1 : RegId) (s : State), ¬ PrevHolds s →
    (s.nxt = .IF → exec (.load rd rs1) s = .next { s with cur := s.cur ++ [Cell.stage .IF], nxt := .ID }) ∧
    (s.nxt = .ID → exec (.load rd rs1) s = .next { s with cur := s.cur ++ [Cell.stage .ID], nxt := .EXE }) ∧
    (s.nxt = .EXE → trackerGet s.A rs1 < s.cur.length + 1 →
      exec (.load rd rs1) s = .next { s with cur := s.cur ++ [Cell.stage .EXE], nxt := .MEM }) ∧
    (s.nxt = .EXE → s.cur.length + 1 ≤ trackerGet s.A rs1 →
      exec (.load rd rs1) s = .next { s with cur := s.cur ++ [Cell.bubble] }) ∧
    (s.nxt = .MEM → exec (.load rd rs1) s = .next { s with
        cur := s.cur ++ [Cell.stage .MEM], nxt := .WB
        A := if s.forwarding then trackerSet s.A rd (s.cur.length + 1) else s.A }) ∧
    (s.nxt = .WB → exec (.load rd rs1) s = .next (finish { s with
        cur := s.cur ++ [Cell.stage .WB]
        A := if s.forwarding then s.A else trackerSet s.A rd (s.cur.length + 1) }))

/-- Class STORE at every stage (R101 to R103): the data register `rs2` is checked before EXE and the base `rs1` before MEM,
reversed on purpose (R102); with the anomaly bit the data register's entry takes the MEM cycle, in both modes. -/
def Obligations.ClassStoreAtEveryStage : Prop :=
  ∀ (rs1 rs2 : RegId) (s : State), ¬ PrevHolds s →
    (s.nxt = .IF → exec (.store rs1 rs2) s = .next { s with cur := s.cur ++ [Cell.stage .IF], nxt := .ID }) ∧
    (s.nxt = .ID → exec (.store rs1 rs2) s = .next { s with cur := s.cur ++ [Cell.stage .ID], nxt := .EXE }) ∧
    (s.nxt = .EXE → trackerGet s.A rs2 < s.cur.length + 1 →
      exec (.store rs1 rs2) s = .next { s with cur := s.cur ++ [Cell.stage .EXE], nxt := .MEM }) ∧
    (s.nxt = .EXE → s.cur.length + 1 ≤ trackerGet s.A rs2 →
      exec (.store rs1 rs2) s = .next { s with cur := s.cur ++ [Cell.bubble] }) ∧
    (s.nxt = .MEM → trackerGet s.A rs1 < s.cur.length + 1 →
      exec (.store rs1 rs2) s = .next { s with
        cur := s.cur ++ [Cell.stage .MEM], nxt := .WB
        A := if s.storeDataAvailAnomaly then trackerSet s.A rs2 (s.cur.length + 1) else s.A }) ∧
    (s.nxt = .MEM → s.cur.length + 1 ≤ trackerGet s.A rs1 →
      exec (.store rs1 rs2) s = .next { s with cur := s.cur ++ [Cell.bubble] }) ∧
    (s.nxt = .WB → exec (.store rs1 rs2) s = .next (finish { s with cur := s.cur ++ [Cell.stage .WB] }))

/-- Class BRANCH at every stage (R105): no tracker write and no control transfer. -/
def Obligations.ClassBranchAtEveryStage : Prop :=
  ∀ (rs1 rs2 : RegId) (s : State), ¬ PrevHolds s →
    (s.nxt = .IF → exec (.branch rs1 rs2) s = .next { s with cur := s.cur ++ [Cell.stage .IF], nxt := .ID }) ∧
    (s.nxt = .ID → exec (.branch rs1 rs2) s = .next { s with cur := s.cur ++ [Cell.stage .ID], nxt := .EXE }) ∧
    (s.nxt = .EXE → trackerGet s.A rs1 < s.cur.length + 1 → trackerGet s.A rs2 < s.cur.length + 1 →
      exec (.branch rs1 rs2) s = .next { s with cur := s.cur ++ [Cell.stage .EXE], nxt := .MEM }) ∧
    (s.nxt = .EXE → (s.cur.length + 1 ≤ trackerGet s.A rs1 ∨ s.cur.length + 1 ≤ trackerGet s.A rs2) →
      exec (.branch rs1 rs2) s = .next { s with cur := s.cur ++ [Cell.bubble] }) ∧
    (s.nxt = .MEM → exec (.branch rs1 rs2) s = .next { s with cur := s.cur ++ [Cell.stage .MEM], nxt := .WB }) ∧
    (s.nxt = .WB → exec (.branch rs1 rs2) s = .next (finish { s with cur := s.cur ++ [Cell.stage .WB] }))

/-- Classes LUI and AUIPC at every stage (R92, R93): no register checked, the destination recorded. -/
def Obligations.ClassesLuiAndAuipcAtEveryStage : Prop :=
  ∀ (rd : RegId) (i : Instr) (s : State), (i = .lui rd ∨ i = .auipc rd) → ¬ PrevHolds s →
    (s.nxt = .IF → exec i s = .next { s with cur := s.cur ++ [Cell.stage .IF], nxt := .ID }) ∧
    (s.nxt = .ID → exec i s = .next { s with cur := s.cur ++ [Cell.stage .ID], nxt := .EXE }) ∧
    (s.nxt = .EXE → exec i s = .next { s with
        cur := s.cur ++ [Cell.stage .EXE], nxt := .MEM
        A := if s.forwarding then trackerSet s.A rd (s.cur.length + 1) else s.A }) ∧
    (s.nxt = .MEM → exec i s = .next { s with cur := s.cur ++ [Cell.stage .MEM], nxt := .WB }) ∧
    (s.nxt = .WB → exec i s = .next (finish { s with
        cur := s.cur ++ [Cell.stage .WB]
        A := if s.forwarding then s.A else trackerSet s.A rd (s.cur.length + 1) }))

/-- Class UNKNOWN at every stage (R106, R107): all five stages, no register check, no tracker write, held by propagation only. -/
def Obligations.ClassUnknownAtEveryStage : Prop :=
  ∀ s : State,
    (PrevHolds s → exec .unknown s = .next { s with cur := s.cur ++ [if s.nxt = .IF then Cell.blank else Cell.bubble] }) ∧
    (¬ PrevHolds s →
      (s.nxt = .IF → exec .unknown s = .next { s with cur := s.cur ++ [Cell.stage .IF], nxt := .ID }) ∧
      (s.nxt = .ID → exec .unknown s = .next { s with cur := s.cur ++ [Cell.stage .ID], nxt := .EXE }) ∧
      (s.nxt = .EXE → exec .unknown s = .next { s with cur := s.cur ++ [Cell.stage .EXE], nxt := .MEM }) ∧
      (s.nxt = .MEM → exec .unknown s = .next { s with cur := s.cur ++ [Cell.stage .MEM], nxt := .WB }) ∧
      (s.nxt = .WB → exec .unknown s = .next (finish { s with cur := s.cur ++ [Cell.stage .WB] })))

/-- R28: register 0 is an ordinary entry. A destination 0 is recorded in `A[0]`, and a reader of register 0 is held on it. -/
def Obligations.RegisterZeroIsTracked : Prop :=
  ∀ (i : Instr) (s : State), ¬ PrevHolds s →
    (i.destinationRegister = some 0 → availStage s.forwarding i.format = some s.nxt →
      (∀ r ∈ need i s.nxt, ready s.A r (s.cur.length + 1) = true) →
        ∃ t, exec i s = .next t ∧ trackerGet t.A 0 = s.cur.length + 1) ∧
    ((0 : RegId) ∈ need i s.nxt → ready s.A 0 (s.cur.length + 1) = false →
      exec i s = .next { s with cur := s.cur ++ [Cell.bubble] })

/-- The spec's decision D15: the readiness test reads the tracker before the step's own write: an instruction whose destination is its own source
tests the earlier value, and so does a STORE with `rs1 = rs2` and the anomaly bit set. -/
def Obligations.ReadinessIsTestedBeforeTheWrite : Prop :=
  ∀ (r : RegId) (s : State), ¬ PrevHolds s → trackerGet s.A r < s.cur.length + 1 →
    (s.nxt = .EXE → s.forwarding = true → ∀ i ∈ [Instr.r r r r, Instr.i r r],
      exec i s = .next { s with
        cur := s.cur ++ [Cell.stage .EXE], nxt := .MEM, A := trackerSet s.A r (s.cur.length + 1) }) ∧
    (s.nxt = .MEM → s.storeDataAvailAnomaly = true →
      exec (.store r r) s = .next { s with
        cur := s.cur ++ [Cell.stage .MEM], nxt := .WB, A := trackerSet s.A r (s.cur.length + 1) })

/-! ### Frames -/

/-- R113: no instruction writes FORWARDING; nor the sequence (R46), nor the anomaly bit (R31). -/
def Obligations.ModeAndSequenceAreNeverWritten : Prop :=
  ∀ (i : Instr) (s t : State), exec i s = .next t →
    t.forwarding = s.forwarding ∧ t.prog = s.prog ∧ t.storeDataAvailAnomaly = s.storeDataAvailAnomaly

/-- Until the WB cell is written, an instruction of any class changes only `cur`, `nxt` and `A`: the index, the descriptor, the
completed rows and `done` are as before. -/
def Obligations.OnlyTheWBStepTouchesTheRunState : Prop :=
  ∀ (i : Instr) (s t : State), exec i s = .next t →
    (s.nxt ≠ .WB ∨ PrevHolds s) → t = { s with cur := t.cur, nxt := t.nxt, A := t.A }

/-- The tracker frame of the five classes that define a destination: every entry but the destination's is unchanged, and a step
that holds changes none. -/
def Obligations.DestinationClassesWriteOnlyTheirDestination : Prop :=
  ∀ (i : Instr) (rd : RegId) (s t : State), i.destinationRegister = some rd → exec i s = .next t →
    (∀ r, r ≠ rd → trackerGet t.A r = trackerGet s.A r) ∧
    (PrevHolds s → t.A = s.A) ∧
    ((∃ r ∈ need i s.nxt, s.cur.length + 1 ≤ trackerGet s.A r) → t.A = s.A)

/-- STORE, BRANCH and UNKNOWN write no destination entry (section 4 of 45_scheduler.md). The exception is the STORE's data
register with the anomaly bit; that it is written at MEM, with the MEM cycle, is the spec's decision D3 (log entry 9). -/
def Obligations.StoreBranchUnknownWriteNoDestination : Prop :=
  ∀ (i : Instr) (s t : State), i.format ∈ [Format.STORE, Format.BRANCH, Format.UNKNOWN] → exec i s = .next t →
    (∀ r, trackerGet t.A r ≠ trackerGet s.A r →
      s.storeDataAvailAnomaly = true ∧ s.nxt = .MEM ∧ (∃ rs1, i = .store rs1 r) ∧
        trackerGet t.A r = s.cur.length + 1) ∧
    (s.storeDataAvailAnomaly = false → t.A = s.A)

/-- The spec's inference in section 4 of 45_scheduler.md: with forwarding disabled the only destination write is the WB cycle, made in the step that writes the WB cell. -/
def Obligations.WithoutForwardingOnlyTheWBStepWrites : Prop :=
  ∀ (i : Instr) (rd : RegId) (s t : State), i.destinationRegister = some rd → s.forwarding = false →
    exec i s = .next t →
      (s.nxt ≠ .WB → t.A = s.A) ∧
      (s.nxt = .WB → ¬ PrevHolds s → t.A = trackerSet s.A rd (s.cur.length + 1))

/-- The spec's decision D2 (conflict C1): with forwarding enabled the WB cell makes no tracker write. -/
def Obligations.WithForwardingTheWBStepWritesNothing : Prop :=
  ∀ (i : Instr) (s t : State), s.forwarding = true → s.nxt = .WB → exec i s = .next t → t.A = s.A

/-- R30: the mode is latched at the start, never written, and selects the availability stage and nothing else. Two starts that
differ in it differ in it alone. Two states that differ in it alone are held alike, their trackers unchanged; entering a stage,
they step to states that differ in the mode and in the tracker, and the tracker is the old one with the destination recorded if
the mode's own availability stage is the one entered (and the STORE anomaly's write, which no mode affects). -/
def Obligations.ForwardingSelectsAvailabilityAndNothingElse : Prop :=
  (∀ anomaly forwarding b prog, (startState anomaly forwarding prog).forwarding = forwarding ∧
    startState anomaly b prog = { startState anomaly forwarding prog with forwarding := b }) ∧
  ∀ (i : Instr) (s t : State) (b : Bool), exec i s = .next t →
    let c := s.cur.length + 1
    let held := PrevHolds s ∨ ∃ r ∈ need i s.nxt, ready s.A r c = false
    t.forwarding = s.forwarding ∧
    (held → t.A = s.A ∧ exec i { s with forwarding := b } = .next { t with forwarding := b }) ∧
    (¬ held →
      exec i { s with forwarding := b } =
        .next { t with
          forwarding := b
          A := setAvail (anomalyWrite i s.nxt s.storeDataAvailAnomaly) c
            (setAvail (destinationWrite i s.nxt b) c s.A) })

/-- R36: rows only grow. Over any number of steps the completed rows stay, and the row being written is extended or completed. -/
def Obligations.RowsAreAppendOnly : Prop :=
  ∀ (k : Nat) (s t : State), Host.Core.run core k s = Host.Outcome.next t →
    ∃ more : List Row, t.rows = s.rows ++ more ∧
      (more = [] → ∃ cells, t.cur = s.cur ++ cells) ∧
      (∀ row rest, more = row :: rest → ∃ cells, row = s.cur ++ cells)

/-! ### Invariants and whole runs -/

/-- The invariant of Safety.lean is kept by every step, from every state that has it. -/
def Obligations.EveryStepKeepsTheInvariant : Prop :=
  ∀ s t : State, StateInv s → step s = .next t → StateInv t

/-- The invariant holds at reset. -/
def Obligations.InvariantHoldsAtReset : Prop := StateInv State.reset

/-- The invariant holds at the start of every run. -/
def Obligations.InvariantHoldsAtEveryStart : Prop :=
  ∀ anomaly forwarding prog, StateInv (startState anomaly forwarding prog)

/-- The spec's inference in section 7 of 45_scheduler.md: the shape of every completed row of every run. -/
def Obligations.EveryCompletedRowHasTheShape : Prop :=
  ∀ s : State, Reachable s → ∀ row ∈ s.rows, RowShape row

/-- The spec's inference, and the document's own property: no two instructions hold the same stage label in the same cycle; a later instruction's is strictly later. -/
def Obligations.NoTwoInstructionsShareAStageInACycle : Prop :=
  ∀ (s : State), Reachable s → ∀ (j k : Nat) (p q : Row) (st : Stage),
    j < k → (rowsSoFar s)[j]? = some p → (rowsSoFar s)[k]? = some q →
      (∀ x y, labelCycle st p = some x → labelCycle st q = some y → x < y) ∧
      (∀ c, cellAt p c = some (Cell.stage st) → cellAt q c ≠ some (Cell.stage st))

/-- The spec's inference, and the document's Scenario D: each IF cycle is the ID cycle of the instruction before, hence strictly later than its IF cycle; and an instruction
that waits `k` cycles before EXE gives the next one exactly `k` bubbles between its IF and its ID. -/
def Obligations.IssueIsMonotonicAndStallsAreHandedOn : Prop :=
  ∀ (s : State), Reachable s → ∀ (j : Nat) (p q : Row), s.rows[j]? = some p → s.rows[j + 1]? = some q →
    (∃ f d e g, labelCycle .IF p = some f ∧ labelCycle .ID p = some d ∧ labelCycle .EXE p = some e ∧
      labelCycle .IF q = some g ∧ g = d ∧ f < g ∧
      bubblesBetween p .ID .EXE = e - d - 1 ∧ bubblesBetween q .IF .ID = e - d - 1)

/-- The spec's inference on where bubbles stand: none between MEM and WB, and between EXE and MEM only for a STORE. -/
def Obligations.OnlyAStoreStallsBetweenEXEAndMEM : Prop :=
  ∀ (s : State), Reachable s → ∀ (j : Nat) (row : Row) (e : Entry), s.rows[j]? = some row → s.prog[j]? = some e →
    bubblesBetween row .MEM .WB = 0 ∧
    (bubblesBetween row .EXE .MEM ≠ 0 → (decode e).format = .STORE)

/-- The spec's inference: the bounds on tracker values, row lengths, consecutive WB cycles and bubble counts. A row's length is its WB cycle. -/
def Obligations.RunsStayWithinTheBounds : Prop :=
  ∀ (s : State), Reachable s →
    ((s.done = true ∨ s.nxt = .IF) → ∀ r, trackerGet s.A r = 0 ∨ ∃ row ∈ s.rows, trackerGet s.A r ≤ row.length) ∧
    (∀ j p q, s.rows[j]? = some p → s.rows[j + 1]? = some q → p.length + 1 ≤ q.length ∧ q.length ≤ p.length + 3) ∧
    (∀ j row, s.rows[j]? = some row → row.length ≤ 3 * j + 5 ∧ row.length ≤ 3 * s.prog.length + 2 ∧
      labelCycle .WB row = some row.length ∧
      ∀ f, labelCycle .IF row = some f → bubbles row + f + 4 = row.length)

/-- R134: every run ends with one row per entry, each ending with its WB cell; an empty sequence is over at once. -/
def Obligations.EveryRunEndsWithARowPerEntry : Prop :=
  ∀ (anomaly forwarding : Bool) (prog : List Entry),
    (prog = [] → (startState anomaly forwarding prog).done = true ∧ (startState anomaly forwarding prog).rows = []) ∧
    ∃ s, hostRun anomaly forwarding prog = .next s ∧ s.done = true ∧ s.i = prog.length ∧
      s.rows.length = prog.length ∧ ∀ row ∈ s.rows, row.getLast? = some (Cell.stage .WB)

/-- The spec's inference: stepping the scheduler gives the rows and the tracker of the closed form, for every sequence, mode and build. -/
def Obligations.RunsAgreeWithTheClosedForm : Prop :=
  ∀ (anomaly forwarding : Bool) (prog : List Entry),
    ∃ s, hostRun anomaly forwarding prog = .next s ∧ s.done = true ∧
      s.rows = (closedForm anomaly forwarding prog).1.map rowOfTiming ∧
      s.A = (closedForm anomaly forwarding prog).2

/-- The spec's inference: each tracker entry is non-decreasing over a run, with either value of the anomaly bit. -/
def Obligations.TrackerEntriesNeverDecrease : Prop :=
  ∀ s t : State, Reachable s → step s = .next t → ∀ r, trackerGet s.A r ≤ trackerGet t.A r

/-- The spec's inference in the first sentence of R143: with forwarding each stage of each instruction is at most as late as without. -/
def Obligations.ForwardingMakesNoStageLater : Prop :=
  ∀ (anomaly : Bool) (prog : List Entry) (s1 s0 : State),
    hostRun anomaly true prog = .next s1 → hostRun anomaly false prog = .next s0 →
      ∀ (j : Nat) (p q : Row) (st : Stage) (x y : Cycle), s1.rows[j]? = some p → s0.rows[j]? = some q →
        labelCycle st p = some x → labelCycle st q = some y → x ≤ y

/-- The bubble-count property the document claims for sequences with a direct dependency (R143, D16), here for every sequence. The
spec records it as searched, not proved. -/
def Obligations.ForwardingAddsNoBubbles : Prop :=
  ∀ (anomaly : Bool) (prog : List Entry) (s1 s0 : State),
    hostRun anomaly true prog = .next s1 → hostRun anomaly false prog = .next s0 →
      (s1.rows.map bubbles).sum ≤ (s0.rows.map bubbles).sum

/-- R89: the scheduler learns of an instruction only through its descriptor: runs over two sequences that decode alike are alike,
step by step, in everything but the sequence itself. -/
def Obligations.SchedulerSeesOnlyDescriptors : Prop :=
  ∀ (anomaly forwarding : Bool) (prog prog' : List Entry), prog.map decode = prog'.map decode →
    ∀ (k : Nat) (s : State), Host.Core.run core k (startState anomaly forwarding prog) = Host.Outcome.next s →
      Host.Core.run core k (startState anomaly forwarding prog') = Host.Outcome.next { s with prog := prog' }

/-- The spec's inference: at the start every register is ready from cycle 1 on, and the first row of every run is `IF ID EXE MEM WB` at cycles
1 to 5. -/
def Obligations.FirstInstructionIsNeverHeld : Prop :=
  (∀ (r : RegId) (c : Cycle), 1 ≤ c → ready trackerReset r c = true) ∧
  ∀ (anomaly forwarding : Bool) (e : Entry) (es : List Entry),
    ∃ s, Host.Core.run core 5 (startState anomaly forwarding (e :: es)) = Host.Outcome.next s ∧
      s.rows = [[Cell.stage .IF, Cell.stage .ID, Cell.stage .EXE, Cell.stage .MEM, Cell.stage .WB]] ∧ s.i = 1

/-- The spec's decision D5, as log entry 5 reads it: in a build that accepted the sequence, no tracker entry and no row outgrows CYCLE_BITS. -/
def Obligations.AcceptedRunsFitTheirCycleBits : Prop :=
  ∀ (b : Config.Build) (forwarding : Bool) (prog : List Entry) (s0 s : State) (k bits : Nat),
    b.cycleBits = some bits → start b forwarding prog = .next s0 → Host.Core.run core k s0 = Host.Outcome.next s →
      (∀ r, trackerGet s.A r < 2 ^ bits) ∧ ∀ row ∈ rowsSoFar s, row.length < 2 ^ bits

/-- The spec's inference in section 3 of 70_reset_and_hazards.md, its table of stall counts, for a producer at the start of a run: `P` writes `x`; the fillers `F` read nothing written before them and
do not write `x`; the consumer `C`, at distance `k`, reads `x` and nothing else that was written. -/
def Obligations.StallCountsByDistanceFromTheProducer : Prop :=
  ∀ (forwarding : Bool) (prog : List Entry) (P C : Instr) (F : List Instr) (x : RegId),
    prog.map decode = P :: (F ++ [C]) →
    P.destinationRegister = some x →
    (P :: F).Pairwise (fun g f => ∀ r, g.destinationRegister = some r → r ∉ f.sourceRegisters) →
    (∀ f ∈ F, f.destinationRegister ≠ some x) →
    (∀ r ∈ C.sourceRegisters, r ≠ x → ∀ g ∈ P :: F, g.destinationRegister ≠ some r) →
      ∃ s row, hostRun false forwarding prog = .next s ∧ s.rows[F.length + 1]? = some row ∧
        (x ∈ need C .EXE →
          bubbles row =
            if forwarding then (if P.format = .LOAD then 2 - (F.length + 1) else 0) else 3 - (F.length + 1)) ∧
        (x ∉ need C .EXE → x ∈ need C .MEM →
          bubbles row = if forwarding then 0 else 2 - (F.length + 1))
end

