-- ==== Sys2Proof/Laws/State.lean ====
section
/-! SUPPORT. One lemma per field per update of State, so that no later proof unfolds a record update. -/

namespace Sys2Proof.Machine

@[simp] theorem appendCell_prog (x : Cell) (s : State) :
    (appendCell x s).prog = s.prog := rfl
@[simp] theorem appendCell_i (x : Cell) (s : State) :
    (appendCell x s).i = s.i := rfl
@[simp] theorem appendCell_desc (x : Cell) (s : State) :
    (appendCell x s).desc = s.desc := rfl
@[simp] theorem appendCell_cur (x : Cell) (s : State) :
    (appendCell x s).cur = s.cur ++ [x] := rfl
@[simp] theorem appendCell_nxt (x : Cell) (s : State) :
    (appendCell x s).nxt = s.nxt := rfl
@[simp] theorem appendCell_rows (x : Cell) (s : State) :
    (appendCell x s).rows = s.rows := rfl
@[simp] theorem appendCell_A (x : Cell) (s : State) :
    (appendCell x s).A = s.A := rfl
@[simp] theorem appendCell_forwarding (x : Cell) (s : State) :
    (appendCell x s).forwarding = s.forwarding := rfl
@[simp] theorem appendCell_storeDataAvailAnomaly (x : Cell) (s : State) :
    (appendCell x s).storeDataAvailAnomaly = s.storeDataAvailAnomaly := rfl
@[simp] theorem appendCell_done (x : Cell) (s : State) :
    (appendCell x s).done = s.done := rfl

@[simp] theorem writeAvail_prog (r : Option RegId) (c : Cycle) (s : State) :
    (writeAvail r c s).prog = s.prog := rfl
@[simp] theorem writeAvail_i (r : Option RegId) (c : Cycle) (s : State) :
    (writeAvail r c s).i = s.i := rfl
@[simp] theorem writeAvail_desc (r : Option RegId) (c : Cycle) (s : State) :
    (writeAvail r c s).desc = s.desc := rfl
@[simp] theorem writeAvail_cur (r : Option RegId) (c : Cycle) (s : State) :
    (writeAvail r c s).cur = s.cur := rfl
@[simp] theorem writeAvail_nxt (r : Option RegId) (c : Cycle) (s : State) :
    (writeAvail r c s).nxt = s.nxt := rfl
@[simp] theorem writeAvail_rows (r : Option RegId) (c : Cycle) (s : State) :
    (writeAvail r c s).rows = s.rows := rfl
@[simp] theorem writeAvail_A (r : Option RegId) (c : Cycle) (s : State) :
    (writeAvail r c s).A = setAvail r c s.A := rfl
@[simp] theorem writeAvail_forwarding (r : Option RegId) (c : Cycle) (s : State) :
    (writeAvail r c s).forwarding = s.forwarding := rfl
@[simp] theorem writeAvail_storeDataAvailAnomaly (r : Option RegId) (c : Cycle) (s : State) :
    (writeAvail r c s).storeDataAvailAnomaly = s.storeDataAvailAnomaly := rfl
@[simp] theorem writeAvail_done (r : Option RegId) (c : Cycle) (s : State) :
    (writeAvail r c s).done = s.done := rfl

@[simp] theorem availWrite_prog (d : Instr) (st : Stage) (c : Cycle) (s : State) :
    (availWrite d st c s).prog = s.prog := rfl
@[simp] theorem availWrite_i (d : Instr) (st : Stage) (c : Cycle) (s : State) :
    (availWrite d st c s).i = s.i := rfl
@[simp] theorem availWrite_desc (d : Instr) (st : Stage) (c : Cycle) (s : State) :
    (availWrite d st c s).desc = s.desc := rfl
@[simp] theorem availWrite_cur (d : Instr) (st : Stage) (c : Cycle) (s : State) :
    (availWrite d st c s).cur = s.cur := rfl
@[simp] theorem availWrite_nxt (d : Instr) (st : Stage) (c : Cycle) (s : State) :
    (availWrite d st c s).nxt = s.nxt := rfl
@[simp] theorem availWrite_rows (d : Instr) (st : Stage) (c : Cycle) (s : State) :
    (availWrite d st c s).rows = s.rows := rfl
@[simp] theorem availWrite_A (d : Instr) (st : Stage) (c : Cycle) (s : State) :
    (availWrite d st c s).A = setAvail (anomalyWrite d st s.storeDataAvailAnomaly) c (setAvail (destinationWrite d st s.forwarding) c s.A) := rfl
@[simp] theorem availWrite_forwarding (d : Instr) (st : Stage) (c : Cycle) (s : State) :
    (availWrite d st c s).forwarding = s.forwarding := rfl
@[simp] theorem availWrite_storeDataAvailAnomaly (d : Instr) (st : Stage) (c : Cycle) (s : State) :
    (availWrite d st c s).storeDataAvailAnomaly = s.storeDataAvailAnomaly := rfl
@[simp] theorem availWrite_done (d : Instr) (st : Stage) (c : Cycle) (s : State) :
    (availWrite d st c s).done = s.done := rfl

@[simp] theorem startInstr_prog (e : Entry) (s : State) :
    (startInstr e s).prog = s.prog := rfl
@[simp] theorem startInstr_i (e : Entry) (s : State) :
    (startInstr e s).i = s.i := rfl
@[simp] theorem startInstr_desc (e : Entry) (s : State) :
    (startInstr e s).desc = decode e := rfl
@[simp] theorem startInstr_cur (e : Entry) (s : State) :
    (startInstr e s).cur = padding s := rfl
@[simp] theorem startInstr_nxt (e : Entry) (s : State) :
    (startInstr e s).nxt = .IF := rfl
@[simp] theorem startInstr_rows (e : Entry) (s : State) :
    (startInstr e s).rows = s.rows := rfl
@[simp] theorem startInstr_A (e : Entry) (s : State) :
    (startInstr e s).A = s.A := rfl
@[simp] theorem startInstr_forwarding (e : Entry) (s : State) :
    (startInstr e s).forwarding = s.forwarding := rfl
@[simp] theorem startInstr_storeDataAvailAnomaly (e : Entry) (s : State) :
    (startInstr e s).storeDataAvailAnomaly = s.storeDataAvailAnomaly := rfl
@[simp] theorem startInstr_done (e : Entry) (s : State) :
    (startInstr e s).done = s.done := rfl

@[simp] theorem retire_prog (s : State) :
    (retire s).prog = s.prog := rfl
@[simp] theorem retire_i (s : State) :
    (retire s).i = s.i + 1 := rfl
@[simp] theorem retire_desc (s : State) :
    (retire s).desc = s.desc := rfl
@[simp] theorem retire_cur (s : State) :
    (retire s).cur = s.cur := rfl
@[simp] theorem retire_nxt (s : State) :
    (retire s).nxt = s.nxt := rfl
@[simp] theorem retire_rows (s : State) :
    (retire s).rows = s.rows ++ [s.cur] := rfl
@[simp] theorem retire_A (s : State) :
    (retire s).A = s.A := rfl
@[simp] theorem retire_forwarding (s : State) :
    (retire s).forwarding = s.forwarding := rfl
@[simp] theorem retire_storeDataAvailAnomaly (s : State) :
    (retire s).storeDataAvailAnomaly = s.storeDataAvailAnomaly := rfl
@[simp] theorem retire_done (s : State) :
    (retire s).done = s.done := rfl

@[simp] theorem freshState_prog (anomaly forwarding : Bool) (prog : List Entry) :
    (freshState anomaly forwarding prog).prog = prog := rfl
@[simp] theorem freshState_i (anomaly forwarding : Bool) (prog : List Entry) :
    (freshState anomaly forwarding prog).i = 0 := rfl
@[simp] theorem freshState_desc (anomaly forwarding : Bool) (prog : List Entry) :
    (freshState anomaly forwarding prog).desc = .unknown := rfl
@[simp] theorem freshState_cur (anomaly forwarding : Bool) (prog : List Entry) :
    (freshState anomaly forwarding prog).cur = [] := rfl
@[simp] theorem freshState_nxt (anomaly forwarding : Bool) (prog : List Entry) :
    (freshState anomaly forwarding prog).nxt = .IF := rfl
@[simp] theorem freshState_rows (anomaly forwarding : Bool) (prog : List Entry) :
    (freshState anomaly forwarding prog).rows = [] := rfl
@[simp] theorem freshState_A (anomaly forwarding : Bool) (prog : List Entry) :
    (freshState anomaly forwarding prog).A = trackerReset := rfl
@[simp] theorem freshState_forwarding (anomaly forwarding : Bool) (prog : List Entry) :
    (freshState anomaly forwarding prog).forwarding = forwarding := rfl
@[simp] theorem freshState_storeDataAvailAnomaly (anomaly forwarding : Bool) (prog : List Entry) :
    (freshState anomaly forwarding prog).storeDataAvailAnomaly = anomaly := rfl
@[simp] theorem freshState_done (anomaly forwarding : Bool) (prog : List Entry) :
    (freshState anomaly forwarding prog).done = false := rfl

@[simp] theorem setAvail_none (c : Cycle) (A : Tracker) : setAvail none c A = A := rfl
@[simp] theorem setAvail_some (r : RegId) (c : Cycle) (A : Tracker) : setAvail (some r) c A = trackerSet A r c := rfl

end Sys2Proof.Machine
end

