-- ==== Sys2Proof/Laws/Ops.lean ====
section
/-! SUPPORT. One lemma for each shared operation that says once everything it can do. -/

namespace Sys2Proof.Machine

/-! ### The tracker's ports -/

@[simp] theorem trackerGet_trackerSet_same (A : Tracker) (r : RegId) (c : Cycle) :
    trackerGet (trackerSet A r c) r = c := by
  simp [trackerGet, trackerSet]

theorem trackerGet_trackerSet (A : Tracker) (r r' : RegId) (c : Cycle) :
    trackerGet (trackerSet A r c) r' = if r = r' then c else trackerGet A r' := by
  by_cases h : r = r'
  · subst h; simp
  · have : r.val ≠ r'.val := fun e => h (Fin.ext e)
    simp [trackerGet, trackerSet, this, h]

theorem trackerGet_setAvail (r : Option RegId) (r' : RegId) (c : Cycle) (A : Tracker) :
    trackerGet (setAvail r c A) r' = if r = some r' then c else trackerGet A r' := by
  cases r <;> simp [trackerGet_trackerSet]

@[simp] theorem trackerGet_trackerReset (r : RegId) : trackerGet trackerReset r = 0 := by
  simp [trackerGet, trackerReset]

/-! ### Rows -/

@[simp] theorem cellAt_zero (row : Row) : cellAt row 0 = none := rfl
@[simp] theorem cellAt_succ (row : Row) (k : Nat) : cellAt row (k + 1) = row[k]? := rfl

theorem prevRow_of_pos (s : State) (h : 1 ≤ s.i) : prevRow s = s.rows[s.i - 1]? := by
  unfold prevRow
  split
  · omega
  · simp_all

theorem prevRow_of_zero (s : State) (h : s.i = 0) : prevRow s = none := by
  simp [prevRow, h]

theorem holdCell_eq (st : Stage) : holdCell st = if st = .IF then Cell.blank else Cell.bubble := by
  cases st <;> rfl

/-! ### The hold conditions -/

theorem ready_iff (A : Tracker) (r : RegId) (c : Cycle) : ready A r c = true ↔ trackerGet A r < c := by
  simp [ready]

theorem dataHazard_iff (d : Instr) (s : State) (c : Cycle) :
    dataHazard d s c = true ↔ ∃ r ∈ need d s.nxt, ¬ trackerGet s.A r < c := by
  simp [dataHazard, ready]

/-! ### Availability -/

/-- A destination is written on entering one stage only: the one the forwarding selection names. -/
theorem destinationWrite_eq_some (d : Instr) (st : Stage) (f : Bool) (r : RegId) :
    destinationWrite d st f = some r ↔ availStage f d.format = some st ∧ d.destinationRegister = some r := by
  simp [destinationWrite]

theorem anomalyWrite_eq_some (d : Instr) (st : Stage) (a : Bool) (r : RegId) :
    anomalyWrite d st a = some r ↔ a = true ∧ st = .MEM ∧ anomalyRegister d = some r := by
  simp [anomalyWrite, and_assoc]

/-! ### Starting and finishing an instruction -/

theorem startOrDone_some (s : State) (e : Entry) (h : s.prog[s.i]? = some e) : startOrDone s = startInstr e s := by
  simp [startOrDone, h]

theorem startOrDone_none (s : State) (h : s.prog[s.i]? = none) : startOrDone s = { s with done := true } := by
  simp [startOrDone, h]

/-- Everything `startOrDone` can do. -/
theorem startOrDone_cases (s : State) :
    (∃ e, s.prog[s.i]? = some e ∧ startOrDone s = { s with desc := decode e, cur := padding s, nxt := .IF }) ∨
      (s.prog.length ≤ s.i ∧ startOrDone s = { s with done := true }) := by
  cases h : s.prog[s.i]? with
  | none => exact .inr ⟨by simpa using h, startOrDone_none s h⟩
  | some e => exact .inl ⟨e, rfl, startOrDone_some s e h⟩

/-- Everything `finish` can do. -/
theorem finish_cases (s : State) :
    (∃ e, s.prog[s.i + 1]? = some e ∧ finish s = { retire s with desc := decode e, cur := padding (retire s), nxt := .IF }) ∨
      (s.prog.length ≤ s.i + 1 ∧ finish s = { retire s with done := true }) :=
  startOrDone_cases (retire s)

/-- What `leaveStage` does at each stage. -/
theorem leaveStage_eq (s : State) :
    leaveStage s =
      match s.nxt with
      | .IF => { s with nxt := .ID }
      | .ID => { s with nxt := .EXE }
      | .EXE => { s with nxt := .MEM }
      | .MEM => { s with nxt := .WB }
      | .WB => finish s := by
  unfold leaveStage
  cases s.nxt <;> rfl

/-! ### One step -/

/-- Everything a step of the scheduler can do, conditions included: hold by propagation, hold by a data hazard, or enter. -/
theorem schedStep_cases (d : Instr) (s : State) :
    (prevBubble s (s.cur.length + 1) = true ∧ schedStep d s = appendCell (holdCell s.nxt) s) ∨
      (prevBubble s (s.cur.length + 1) = false ∧ (∃ r ∈ need d s.nxt, ¬ trackerGet s.A r < s.cur.length + 1) ∧
        schedStep d s = appendCell .bubble s) ∨
      (prevBubble s (s.cur.length + 1) = false ∧ (∀ r ∈ need d s.nxt, trackerGet s.A r < s.cur.length + 1) ∧
        schedStep d s = enterStage d (s.cur.length + 1) s) := by
  by_cases hp : prevBubble s (s.cur.length + 1) = true
  · exact .inl ⟨hp, by simp [schedStep, candidateCycle, hp]⟩
  · have hp' : prevBubble s (s.cur.length + 1) = false := by simpa using hp
    by_cases hd : dataHazard d s (s.cur.length + 1) = true
    · exact .inr (.inl ⟨hp', (dataHazard_iff d s _).1 hd, by simp [schedStep, candidateCycle, hp', hd]⟩)
    · refine .inr (.inr ⟨hp', fun r hr => ?_, by simp [schedStep, candidateCycle, hp', hd]⟩)
      by_contra hn
      exact hd ((dataHazard_iff d s _).2 ⟨r, hr, hn⟩)

/-- Every meaning is one step of the scheduler for its descriptor. -/
theorem exec_eq (d : Instr) (s : State) : exec d s = .next (schedStep d s) := by
  cases d <;> rfl

/-- Everything `step` can do. -/
theorem step_cases (s : State) :
    (s.done = true ∧ step s = .refused .runOver) ∨ (s.done = false ∧ step s = .next (schedStep s.desc s)) := by
  cases h : s.done with
  | false => exact .inr ⟨rfl, by simp [step, h, exec_eq]⟩
  | true => exact .inl ⟨rfl, by simp [step, h]⟩

end Sys2Proof.Machine
end

