-- ==== Sys2Proof/Laws/PerInstr.lean ====
section
/-! SUPPORT. Facts about every instruction as syntax, one lemma per constructor. -/

namespace Sys2Proof.Laws.DescriptorShape

/-- The descriptor has the shape its format fixes (R66, R81). -/
def Statement (i : Instr) : Prop := i.wellFormed = true

theorem r (rd rs1 rs2 : RegId) : Statement (.r rd rs1 rs2) := rfl
theorem i (rd rs1 : RegId) : Statement (.i rd rs1) := rfl
theorem load (rd rs1 : RegId) : Statement (.load rd rs1) := rfl
theorem store (rs1 rs2 : RegId) : Statement (.store rs1 rs2) := rfl
theorem branch (rs1 rs2 : RegId) : Statement (.branch rs1 rs2) := rfl
theorem lui (rd : RegId) : Statement (.lui rd) := rfl
theorem auipc (rd : RegId) : Statement (.auipc rd) := rfl
theorem unknown : Statement .unknown := rfl

end Sys2Proof.Laws.DescriptorShape

namespace Sys2Proof.Laws.EncodedOpcode

/-- The low seven bits of the encoded word are the opcode of the instruction's format (R61, R62). -/
def Statement (i : Instr) : Prop := opcode (encode i) = opcodeOfFormat i.format

/-- A layout carries its opcode in its low seven bits. -/
theorem opcode_layout (op : Nat) (h : op < 128) (rd rs1 rs2 : RegId) : opcode (layout op rd rs1 rs2) = op := by
  have := rd.isLt
  have := rs1.isLt
  have := rs2.isLt
  simp only [opcode, slice, layout, BitVec.toNat_ofNat, Nat.shiftRight_zero]
  omega

theorem r (rd rs1 rs2 : RegId) : Statement (.r rd rs1 rs2) := opcode_layout _ (by decide) _ _ _
theorem i (rd rs1 : RegId) : Statement (.i rd rs1) := opcode_layout _ (by decide) _ _ _
theorem load (rd rs1 : RegId) : Statement (.load rd rs1) := opcode_layout _ (by decide) _ _ _
theorem store (rs1 rs2 : RegId) : Statement (.store rs1 rs2) := opcode_layout _ (by decide) _ _ _
theorem branch (rs1 rs2 : RegId) : Statement (.branch rs1 rs2) := opcode_layout _ (by decide) _ _ _
theorem lui (rd : RegId) : Statement (.lui rd) := opcode_layout _ (by decide) _ _ _
theorem auipc (rd : RegId) : Statement (.auipc rd) := opcode_layout _ (by decide) _ _ _
theorem unknown : Statement .unknown := opcode_layout _ (by decide) _ _ _

end Sys2Proof.Laws.EncodedOpcode
end

