-- ==== Sys2Proof/Laws/Rows.lean ====
section
/-! SUPPORT. The terms of Safety.lean, related once to the operations of the machine. -/

namespace Sys2Proof

open Sys2Proof.Machine

/-- The claims' wording of stall propagation is the test the step makes. -/
theorem prevHolds_iff (s : State) : PrevHolds s ↔ prevBubble s (s.cur.length + 1) = true := by
  unfold PrevHolds prevBubble
  rcases Nat.eq_zero_or_pos s.i with h | h
  · simp [h, prevRow_of_zero]
  · rw [prevRow_of_pos s h]
    simp [cellAt]
    omega

theorem not_prevHolds_iff (s : State) : ¬ PrevHolds s ↔ prevBubble s (s.cur.length + 1) = false := by
  simp [prevHolds_iff]

/-- Instruction 0 never holds by propagation. -/
theorem not_prevHolds_of_zero (s : State) (h : s.i = 0) : ¬ PrevHolds s := by
  simp [PrevHolds, h]

theorem scanRow_append (row : Row) (x : Cell) : scanRow (row ++ [x]) = scanCell (scanRow row) x := by
  simp [scanRow]

@[simp] theorem scanRow_nil : scanRow [] = some (some .IF) := rfl

theorem scanRow_replicate_blank (n : Nat) : scanRow (List.replicate n Cell.blank) = some (some .IF) := by
  induction n with
  | zero => rfl
  | succ n ih => rw [List.replicate_succ', scanRow_append, ih]; rfl

/-- The label of the stage a row waits to enter is always in place. -/
theorem scanCell_label (st : Stage) : scanCell (some (some st)) (.stage st) = some (succStage st) := by
  cases st <;> rfl

/-- So is the hold cell. -/
theorem scanCell_hold (st : Stage) : scanCell (some (some st)) (holdCell st) = some (some st) := by
  cases st <;> rfl

theorem runUntilDone_done (k : Nat) (s : State) (h : s.done = true) : runUntilDone k s = .next s := by
  cases k <;> simp [runUntilDone, h]

theorem runUntilDone_step (k : Nat) (s : State) (h : s.done = false) :
    runUntilDone (k + 1) s = runUntilDone k (schedStep s.desc s) := by
  rcases step_cases s with ⟨h', -⟩ | ⟨-, h'⟩
  · simp [h] at h'
  · simp [runUntilDone, h, h']

theorem core_run_zero (s : State) : Host.Core.run core 0 s = Host.Outcome.next s := rfl

/-- One step of a run, for any machine. -/
theorem run_of_next {M : Host.Core} (k : Nat) (s t : M.State) (h : M.step s = .next t) :
    M.run (k + 1) s = M.run k t := by
  rw [Host.Core.run, h]

theorem run_of_refused {M : Host.Core} (k : Nat) (s : M.State) (x : M.Refusal) (h : M.step s = .refused x) :
    M.run (k + 1) s = .refused x := by
  rw [Host.Core.run, h]

theorem core_run_next (k : Nat) (s t : State) (h : step s = .next t) :
    Host.Core.run core (k + 1) s = Host.Core.run core k t :=
  run_of_next (M := core) k s t h

theorem core_run_refused (k : Nat) (s : State) (x : Refusal) (h : step s = .refused x) :
    Host.Core.run core (k + 1) s = Host.Outcome.refused x :=
  run_of_refused (M := core) k s x h

/-- A fact that holds at every start and that every step keeps holds of every reachable state. -/
theorem Reachable.induct {P : State → Prop}
    (hstart : ∀ anomaly forwarding prog, P (startState anomaly forwarding prog))
    (hstep : ∀ s t, P s → step s = .next t → P t) {s : State} (h : Reachable s) : P s := by
  obtain ⟨anomaly, forwarding, prog, k, hk⟩ := h
  have key : ∀ k (s0 : State), P s0 → Host.Core.run core k s0 = Host.Outcome.next s → P s := by
    intro k
    induction k with
    | zero =>
      intro s0 h0 hr
      cases hr
      exact h0
    | succ k ih =>
      intro s0 h0 hr
      cases hs : step s0 with
      | next t => exact ih t (hstep s0 t h0 hs) (core_run_next k s0 t hs ▸ hr)
      | fault f => exact nomatch f
      | refused x => rw [core_run_refused k s0 x hs] at hr; cases hr
  exact key k _ (hstart _ _ _) hk

end Sys2Proof
end

