-- ==== Sys2Proof/Tests/Slice0.lean ====
section
/-! SUPPORT. Tests. Expected results are those of 95_test_vectors.md (DV and T numbers are its own), never the model's. Then, for
each statement with hypotheses, a witness that meets them. -/

namespace Sys2Proof.Tests

open Sys2Proof.Machine

/-! ### Descriptors: one ill-formed triple for each check, refused -/

theorem test_wellFormed_accepts_R : Descriptor.wellFormed ⟨.R, [14, 27], some 17⟩ = true := by decide
theorem test_wellFormed_refuses_one_source_too_few : Descriptor.wellFormed ⟨.R, [14], some 17⟩ = false := by decide
theorem test_wellFormed_refuses_one_source_too_many : Descriptor.wellFormed ⟨.LUI, [14], some 17⟩ = false := by decide
theorem test_wellFormed_refuses_a_missing_destination : Descriptor.wellFormed ⟨.I, [14], none⟩ = false := by decide
theorem test_wellFormed_refuses_a_destination_of_a_STORE :
    Descriptor.wellFormed ⟨.STORE, [14, 27], some 17⟩ = false := by decide

/-! ### Decoder vectors: words written out from R61 to R66 -/

/-- DV1, DV2, DV15, DV16, DV17 -/
theorem test_decode_R :
    [0x01B708B3, 0xFFB778B3, 0x002081B3, 0x402081B3, 0x005282B3].map (fun w => decode (.word w)) =
      [.r 17 14 27, .r 17 14 27, .r 3 1 2, .r 3 1 2, .r 5 5 5] := by decide

/-- DV3, DV4, DV18, DV19 -/
theorem test_decode_I :
    [0x01B70893, 0xFFB77893, 0x00C30293, 0x00000013].map (fun w => decode (.word w)) =
      [.i 17 14, .i 17 14, .i 5 6, .i 0 0] := by decide

/-- DV5, DV6, DV22, DV23 -/
theorem test_decode_LOAD :
    [0x01B70883, 0xFFB77883, 0x00012083, 0xFFFFC483].map (fun w => decode (.word w)) =
      [.load 17 14, .load 17 14, .load 1 2, .load 9 31] := by decide

/-- DV7, DV8, DV24, DV25 -/
theorem test_decode_STORE :
    [0x01B708A3, 0xFFB778A3, 0x00532223, 0x00632223].map (fun w => decode (.word w)) =
      [.store 14 27, .store 14 27, .store 6 5, .store 6 6] := by decide

/-- DV9, DV10, DV26, DV27 -/
theorem test_decode_BRANCH :
    [0x01B708E3, 0xFFB778E3, 0x00208463, 0xFEB516E3].map (fun w => decode (.word w)) =
      [.branch 14 27, .branch 14 27, .branch 1 2, .branch 10 11] := by decide

/-- DV11 to DV14, DV20, DV21 -/
theorem test_decode_LUI_AUIPC :
    [0x01B708B7, 0xFFB778B7, 0x01B70897, 0xFFB77897, 0x123453B7, 0x00001417].map (fun w => decode (.word w)) =
      [.lui 17, .lui 17, .auipc 17, .auipc 17, .lui 7, .auipc 8] := by decide

/-- DV28 to DV38 -/
theorem test_decode_UNKNOWN :
    ([0x000000EF, 0x00008067, 0x0000000F, 0x00000073, 0x00100073, 0x0021A0AF, 0x00000000, 0xFFFFFFFF, 0x00004501,
      0x00000032].all (fun w => decode (.word w) = .unknown)) = true ∧ decode .invalid = .unknown := by decide

/-- The wires of DV1, DV7, DV12, DV22 and DV38, in the order valid, format, nsrc, src0, src1, dest_valid, dest -/
theorem test_wires :
    decoderWires (.word 0x01B708B3) = ⟨true, 0, 2, 14, 27, true, 17⟩ ∧
    decoderWires (.word 0x01B708A3) = ⟨true, 3, 2, 14, 27, false, 0⟩ ∧
    decoderWires (.word 0xFFB778B7) = ⟨true, 5, 0, 0, 0, true, 17⟩ ∧
    decoderWires (.word 0x00012083) = ⟨true, 2, 1, 2, 0, true, 1⟩ ∧
    decoderWires .invalid = ⟨false, 7, 0, 0, 0, false, 0⟩ := by decide

/-- R66: with every ignored bit 0, DV1, DV3 and DV11 without their rs2 or rs1 bits -/
theorem test_encode :
    encode (.r 17 14 27) = 0x01B708B3 ∧ encode (.i 17 14) = 0x00070893 ∧ encode (.load 17 14) = 0x00070883 ∧
    encode (.store 14 27) = 0x01B70023 ∧ encode (.branch 14 27) = 0x01B70063 ∧ encode (.lui 17) = 0x000008B7 ∧
    encode (.auipc 17) = 0x00000897 := by decide

theorem test_decodeTableWord : decodeTableWord 32 0x01B708B3 = some (.r 17 14 27) ∧ decodeTableWord 64 0 = none := by decide

/-! ### One step of each class -/

/-- The tracker with some entries set. -/
def trackerOf (l : List (RegId × Cycle)) : Tracker := l.foldl (fun A p => trackerSet A p.1 p.2) trackerReset

def unheldRow : Row := [.stage .IF, .stage .ID, .stage .EXE, .stage .MEM, .stage .WB]

/-- Instruction 0 in a run of two, about to enter a stage, unheld so far. -/
def firstAt (st : Stage) (forwarding anomaly : Bool) (l : List (RegId × Cycle)) : State where
  prog := [.invalid, .invalid]
  i := 0
  desc := .unknown
  cur := match st with
    | .IF => []
    | .ID => unheldRow.take 1
    | .EXE => unheldRow.take 2
    | .MEM => unheldRow.take 3
    | .WB => unheldRow.take 4
  nxt := st
  rows := []
  A := trackerOf l
  forwarding := forwarding
  storeDataAvailAnomaly := anomaly
  done := false

/-- Instruction 1 in a run of three, with a given row before it. -/
def secondAt (before cur : Row) (st : Stage) (forwarding : Bool) (l : List (RegId × Cycle)) : State where
  prog := [.invalid, .invalid, .invalid]
  i := 1
  desc := .unknown
  cur := cur
  nxt := st
  rows := [before]
  A := trackerOf l
  forwarding := forwarding
  storeDataAvailAnomaly := false
  done := false

/-- A check of the next state. -/
def after (o : Host.Outcome State Fault Refusal) (check : State → Bool) : Bool :=
  match o with
  | .next t => check t
  | .fault _ => false
  | .refused _ => false

def untilID : Row := [.blank, .stage .IF, .stage .ID]

/-- T1 without forwarding: `add x4, x1, x5` holds at cycle 4, `A[1] = 5` -/
theorem test_R_holds :
    after (exec (.r 4 1 5) (secondAt unheldRow untilID .EXE false [(1, 5)]))
      (fun t => t.cur = untilID ++ [.bubble] ∧ t.nxt = .EXE ∧ t.A = trackerOf [(1, 5)]) = true := by decide

/-- T1 with forwarding: it enters EXE at cycle 4, `A[1] = 3`, and records `A[4] = 4` -/
theorem test_R_enters :
    after (exec (.r 4 1 5) (secondAt unheldRow untilID .EXE true [(1, 3)]))
      (fun t => t.cur = untilID ++ [.stage .EXE] ∧ t.nxt = .MEM ∧ t.A = trackerOf [(1, 3), (4, 4)]) = true := by decide

/-- T28 without forwarding: `addi x5, x6, 12` records `A[5] = 5` at WB -/
theorem test_I_records_at_WB :
    after (exec (.i 5 6) (firstAt .WB false false []))
      (fun t => t.rows = [unheldRow] ∧ t.A = trackerOf [(5, 5)] ∧ t.i = 1) = true := by decide

/-- T9: an I word whose bits 24:20 hold 27 does not wait for x27 -/
theorem test_I_ignores_rs2_bits :
    after (exec (decode (.word 0x01B70893)) (secondAt unheldRow untilID .EXE false [(27, 5)]))
      (fun t => t.cur = untilID ++ [.stage .EXE]) = true := by decide

/-- Step 4 of the trace of 3.9: a LOAD with forwarding records its MEM cycle -/
theorem test_LOAD_records_at_MEM :
    after (exec (.load 1 2) (firstAt .MEM true false [])) (fun t => t.A = trackerOf [(1, 4)] ∧ t.nxt = .WB) = true := by decide

/-- T14 with forwarding: `lw x5, 0(x1)` holds at cycle 4 on its base, `A[1] = 4` -/
theorem test_LOAD_holds_on_its_base :
    after (exec (.load 5 1) (secondAt unheldRow untilID .EXE true [(1, 4)]))
      (fun t => t.cur = untilID ++ [.bubble]) = true := by decide

/-- T16 without forwarding: `sw x5, 4(x6)` waits for its base before MEM, not before EXE -/
theorem test_STORE_checks_its_base_before_MEM :
    after (exec (.store 6 5) (secondAt unheldRow untilID .EXE false [(6, 5)]))
      (fun t => t.cur = untilID ++ [.stage .EXE]) = true ∧
    after (exec (.store 6 5) (secondAt unheldRow (untilID ++ [.stage .EXE]) .MEM false [(6, 5)]))
      (fun t => t.cur = untilID ++ [.stage .EXE, .bubble]) = true := by decide

/-- T21: with the anomaly bit `sw x5, 4(x6)` records `A[5] = 4`; T20: without it, nothing -/
theorem test_STORE_anomaly :
    after (exec (.store 6 5) (firstAt .MEM false true [])) (fun t => t.A = trackerOf [(5, 4)]) = true ∧
    after (exec (.store 6 5) (firstAt .MEM false false [])) (fun t => t.A = trackerReset) = true := by decide

/-- T23 with forwarding: `beq x1, x2, 8` holds at cycle 4, `A[1] = 4` -/
theorem test_BRANCH_holds :
    after (exec (.branch 1 2) (secondAt unheldRow untilID .EXE true [(1, 4)]))
      (fun t => t.cur = untilID ++ [.bubble]) = true := by decide

/-- T31: a branch records nothing, and the next entry is started -/
theorem test_BRANCH_records_nothing :
    after (exec (.branch 1 2) (firstAt .WB false false []))
      (fun t => t.A = trackerReset ∧ t.i = 1 ∧ t.cur = [.blank] ∧ t.nxt = .IF) = true := by decide

/-- T32: `lui x7` records its EXE cycle with forwarding, its WB cycle without -/
theorem test_LUI_records :
    after (exec (.lui 7) (firstAt .EXE true false [])) (fun t => t.A = trackerOf [(7, 3)]) = true ∧
    after (exec (.lui 7) (firstAt .WB false false [])) (fun t => t.A = trackerOf [(7, 5)]) = true := by decide

/-- T11: `auipc x1` after a writer of x1 does not stall -/
theorem test_AUIPC_does_not_stall :
    after (exec (.auipc 1) (secondAt unheldRow untilID .EXE false [(1, 5)]))
      (fun t => t.cur = untilID ++ [.stage .EXE]) = true := by decide

/-- T26: an UNKNOWN behind a held instruction writes "-" after its IF, and BLANK before it (1.5, the chain of four) -/
theorem test_UNKNOWN_is_held_by_propagation :
    after (exec .unknown (secondAt [.blank, .stage .IF, .stage .ID, .bubble] [.blank, .blank, .stage .IF] .ID false []))
      (fun t => t.cur = [.blank, .blank, .stage .IF, .bubble] ∧ t.nxt = .ID) = true ∧
    after (exec .unknown (secondAt [.blank, .blank, .stage .IF, .bubble] [.blank, .blank, .blank] .IF false []))
      (fun t => t.cur = [.blank, .blank, .blank, .blank] ∧ t.nxt = .IF) = true := by decide

/-- T34: an UNKNOWN records nothing, whatever a RISC-V machine would link -/
theorem test_UNKNOWN_records_nothing :
    after (exec (decode (.word 0x000000EF)) (firstAt .WB false false [])) (fun t => t.A = trackerReset) = true := by decide

/-- Step 11 of the trace of 3.9: the last WB cell ends the run -/
theorem test_last_WB_ends_the_run :
    after (exec .unknown { firstAt .WB true false [] with prog := [.invalid] })
      (fun t => t.done ∧ t.rows = [unheldRow] ∧ t.i = 1) = true := by decide

/-- 1.7: an empty sequence is over at once -/
theorem test_empty_sequence : (startState false true []).done = true ∧ (startState false true []).rows = [] := by decide

/-- A word placed after reset is what the next step runs: it enters IF at cycle 1 -/
theorem test_withFetchWord :
    after (step (State.reset.withFetchWord 32 0x002081B3))
      (fun t => t.cur = [.stage .IF] ∧ t.desc = .r 3 1 2 ∧ t.nxt = .ID) = true := by decide

/-- PlacedWordIsRunByTheNextStep: the index inside the sequence, at its end and past it. -/
theorem witness_PlacedWord :
    let inside := { State.reset with prog := [.invalid, .invalid, .invalid], i := 1 }
    let atEnd := { State.reset with prog := [.invalid], i := 1 }
    let past := { State.reset with i := 1 }
    (inside.i ≤ inside.prog.length ∧
      (inside.withFetchWord 32 0x002081B3).prog = [.invalid, .word 0x002081B3, .invalid]) ∧
    (atEnd.i ≤ atEnd.prog.length ∧ (atEnd.withFetchWord 32 0x002081B3).prog = [.invalid, .word 0x002081B3]) ∧
    (past.prog.length < past.i ∧ (past.withFetchWord 32 0x002081B3).prog = [.word 0x002081B3]) := by decide

/-- D5: three entries need cycles up to 11, so four bits hold them and four entries (14) too, but not five (17) -/
theorem test_accepts :
    accepts ⟨false, some 4, none⟩ 4 = true ∧ accepts ⟨false, some 4, none⟩ 5 = false ∧
    accepts ⟨false, none, some 4⟩ 4 = true ∧ accepts ⟨false, none, some 4⟩ 5 = false := by decide

/-! ### Witnesses: states and operands that meet the hypotheses of the statements, at the boundary of each clause -/

def rowHeldAtFour : Row := [.stage .IF, .stage .ID, .stage .EXE, .bubble]

/-- Instruction 1 with a bubble before it at its candidate cycle 4. -/
def heldAt (st : Stage) : State := secondAt rowHeldAtFour untilID st false []

theorem witness_wellFormed : (Instr.r 1 2 3).wellFormed = true := by decide

theorem witness_EncodeOfDecode : decode (.word 0x002081B3) ≠ .unknown ∧ decode (.word 0xFFFFFFFF) = .unknown := by decide

theorem witness_IgnoredBits :
    (0x002081B3 : Word) &&& ~~~ (ignoredBits (decode (.word 0x002081B3)).format) =
      0x402081B3 &&& ~~~ (ignoredBits (decode (.word 0x002081B3)).format) := by decide

theorem witness_opcode_values :
    ([0x01B708B3, 0x01B70893, 0x01B70883, 0x01B708A3, 0x01B708E3, 0x01B708B7, 0x01B70897] : List Word).map
        (fun w => w.toNat % 128) =
      [0b0110011, 0b0010011, 0b0000011, 0b0100011, 0b1100011, 0b0110111, 0b0010111] := by decide

theorem witness_unrecognised :
    (0x00000032 : Word).toNat % 128 ∉ [0b0110011, 0b0010011, 0b0000011, 0b0100011, 0b1100011, 0b0110111, 0b0010111] ∧
    ([0x000000EF, 0x00008067, 0x0000000F, 0x00000073, 0x0021A0AF] : List Word).map (fun w => w.toNat % 128) =
      [0b1101111, 0b1100111, 0b0001111, 0b1110011, 0b0101111] ∧
    ([0x00000032, 0x00000031, 0x00000030] : List Word).all (fun w => w.toNat % 4 ≠ 3) = true := by decide

theorem witness_another_register : (1 : RegId) ≠ 0 := by decide

theorem witness_accepts :
    accepts ⟨true, some 4, some 4⟩ [Entry.invalid, .invalid, .invalid, .invalid].length = true ∧
    [Entry.invalid][0]? = some .invalid := by decide

theorem witness_done : State.reset.done = true := by decide

theorem witness_StepRunsTheDecodedEntry :
    StateInv (startState false true [.word 0x00012083]) ∧ (startState false true [.word 0x00012083]).done = false ∧
    (startState false true [.word 0x00012083]).prog[(startState false true [.word 0x00012083]).i]? =
      some (.word 0x00012083) := by decide

theorem witness_PrevHolds :
    (∀ st ∈ [Stage.IF, .ID, .EXE, .MEM, .WB], PrevHolds (heldAt st)) ∧
    ∀ st ∈ [Stage.IF, .ID, .EXE, .MEM, .WB], ¬ PrevHolds (firstAt st false false []) ∧
      (firstAt st false false []).nxt = st := by decide

/-- A row that ends before the candidate cycle, a label there, and a blank there do not hold the next instruction. -/
theorem witness_not_PrevHolds :
    ¬ PrevHolds (secondAt (rowHeldAtFour.take 3) untilID .EXE false []) ∧
    ¬ PrevHolds (secondAt unheldRow untilID .EXE false []) ∧
    ¬ PrevHolds (secondAt [.blank, .blank, .blank, .blank] untilID .EXE false []) := by decide

/-- A hazard at the boundary: the entry equals the candidate cycle (held) or is one below it (ready). -/
theorem witness_hazard :
    (∃ r ∈ need (.r 3 1 2) .EXE, ready (firstAt .EXE false false [(1, 3)]).A r 3 = false) ∧
    (∃ r ∈ need (.store 1 2) .MEM, ready (firstAt .MEM false false [(1, 4)]).A r 4 = false) ∧
    (∀ r ∈ need (.r 3 1 2) .EXE, ready (firstAt .EXE false false [(1, 2), (2, 2)]).A r 3 = true) ∧
    (∀ r ∈ need (.store 1 2) .MEM, ready (firstAt .MEM false false [(1, 3)]).A r 4 = true) := by decide

/-- The clauses of the class statements at EXE and MEM: both sources one below the candidate cycle, and each at it. -/
theorem witness_class_clauses :
    let ready := firstAt .EXE true false [(1, 2), (2, 2)]
    let first := firstAt .EXE true false [(1, 3), (2, 2)]
    let second := firstAt .EXE true false [(1, 2), (2, 3)]
    let base := firstAt .MEM true true [(1, 3), (2, 2)]
    let late := firstAt .MEM true true [(1, 4), (2, 2)]
    (¬ PrevHolds ready ∧ ready.nxt = .EXE ∧ trackerGet ready.A 1 < ready.cur.length + 1 ∧
      trackerGet ready.A 2 < ready.cur.length + 1) ∧
    (¬ PrevHolds first ∧ first.nxt = .EXE ∧ first.cur.length + 1 ≤ trackerGet first.A 1) ∧
    (¬ PrevHolds second ∧ second.nxt = .EXE ∧ second.cur.length + 1 ≤ trackerGet second.A 2) ∧
    (¬ PrevHolds base ∧ base.nxt = .MEM ∧ trackerGet base.A 1 < base.cur.length + 1) ∧
    (¬ PrevHolds late ∧ late.nxt = .MEM ∧ late.cur.length + 1 ≤ trackerGet late.A 1) := by decide

theorem witness_LuiAuipc : (Instr.lui 7 = .lui 7 ∨ Instr.lui 7 = .auipc 7) ∧ (Instr.auipc 7 = .lui 7 ∨ Instr.auipc 7 = .auipc 7) :=
  ⟨.inl rfl, .inr rfl⟩

theorem witness_RegisterZero :
    (∀ i ∈ [Instr.r 0 1 2, .i 0 1, .lui 0, .auipc 0], i.destinationRegister = some 0 ∧
      availStage true i.format = some (firstAt .EXE true false []).nxt ∧
      ∀ r ∈ need i .EXE, ready (firstAt .EXE true false [(1, 2)]).A r 3 = true) ∧
    (Instr.load 0 1).destinationRegister = some 0 ∧ availStage true (Instr.load 0 1).format = some .MEM ∧
    (0 : RegId) ∈ need (.i 1 0) .EXE ∧ ready (firstAt .EXE true false [(0, 3)]).A 0 3 = false := by decide

theorem witness_Readiness :
    let s := firstAt .EXE true false [(5, 2)]
    let m := firstAt .MEM true true [(5, 3)]
    (¬ PrevHolds s ∧ trackerGet s.A 5 < s.cur.length + 1 ∧ s.nxt = .EXE ∧ s.forwarding = true) ∧
    (¬ PrevHolds m ∧ trackerGet m.A 5 < m.cur.length + 1 ∧ m.nxt = .MEM ∧ m.storeDataAvailAnomaly = true) := by decide

/-- A row with its one IF cell at cycle 1, for an instruction with an entry after it, and for the last one. -/
theorem witness_Finish :
    let s := { firstAt .WB false false [] with cur := unheldRow }
    s.rows.length = s.i ∧ (∀ k, s.cur[k]? = some (Cell.stage .IF) ↔ k + 1 = 1) ∧
    s.prog[s.i + 1]? = some .invalid ∧ ({ s with prog := [.invalid] } : State).i + 1 = [Entry.invalid].length := by
  refine ⟨rfl, fun k => ?_, rfl, rfl⟩
  rcases k with _ | _ | _ | _ | _ | k <;> simp [unheldRow]

/-- Every class answers a next state, so the frames' premise is met by each, in every state. -/
theorem witness_exec_next (i : Instr) (s : State) : ∃ t, exec i s = .next t := ⟨_, exec_eq i s⟩

theorem witness_frame_premises :
    (firstAt .EXE false false []).nxt ≠ .WB ∧ (PrevHolds (heldAt .WB) ∧ (heldAt .WB).nxt = .WB) ∧
    (Instr.load 1 2).destinationRegister = some 1 ∧
    (∀ i ∈ [Instr.store 1 2, .branch 1 2, .unknown], i.format ∈ [Format.STORE, Format.BRANCH, Format.UNKNOWN]) ∧
    (firstAt .WB false false []).forwarding = false ∧ (firstAt .WB true false []).forwarding = true ∧
    (firstAt .WB true false []).nxt = .WB ∧ (firstAt .MEM false false []).storeDataAvailAnomaly = false := by decide

/-- ForwardingSelectsAvailabilityAndNothingElse: a hold of each kind, and an entry on which the two modes' writes differ. -/
theorem witness_ForwardingSelects :
    PrevHolds (heldAt .EXE) ∧
    (∃ r ∈ need (.i 5 1) .EXE, ready (firstAt .EXE false false [(1, 3)]).A r 3 = false) ∧
    ¬ (PrevHolds (firstAt .EXE false false [(1, 2)]) ∨
      ∃ r ∈ need (.i 5 1) .EXE, ready (firstAt .EXE false false [(1, 2)]).A r 3 = false) ∧
    destinationWrite (.i 5 1) .EXE true = some 5 ∧ destinationWrite (.i 5 1) .EXE false = none := by decide

/-- The anomaly clause of the STORE frame: an entry changes. -/
theorem witness_STORE_entry_changes :
    after (exec (.store 6 5) (firstAt .MEM false true [])) (fun t => trackerGet t.A 5 ≠ 0) = true := by decide

theorem witness_StateInv_next :
    StateInv (startState false true [.invalid]) ∧
    after (step (startState false true [.invalid])) (fun _ => true) = true := by decide

/-- The load-use pair of 1.4 with forwarding, run to its end: a reachable state with two completed rows. -/
def loadUse : List Entry := [.word 0x00012083, .word 0x004081B3]

theorem witness_Reachable :
    ∃ s, Reachable s ∧ s.done = true ∧ s.rows.length = 2 ∧ s.rows[0]? = some unheldRow ∧
      s.rows[1]? = some [.blank, .stage .IF, .stage .ID, .bubble, .stage .EXE, .stage .MEM, .stage .WB] :=
  ⟨_, ⟨false, true, loadUse, 11, rfl⟩, by decide⟩

/-- A reachable state that still steps, before IF, and one with a row whose labels exist. -/
theorem witness_Reachable_step :
    Reachable (startState false true loadUse) ∧ (startState false true loadUse).nxt = .IF ∧
    after (step (startState false true loadUse)) (fun _ => true) = true ∧
    labelCycle .IF unheldRow = some 1 ∧ labelCycle .WB unheldRow = some 5 ∧ cellAt unheldRow 3 = some (.stage .EXE) :=
  ⟨⟨false, true, loadUse, 0, rfl⟩, by decide, by decide, by decide, by decide, by decide⟩

/-- T16 without forwarding: a reachable completed STORE row with a bubble between EXE and MEM. -/
theorem witness_STORE_stall :
    ∃ s, Reachable s ∧ ∃ row, s.rows[1]? = some row ∧ s.prog[1]? = some (.word 0x00532223) ∧
      bubblesBetween row .EXE .MEM ≠ 0 :=
  ⟨_, ⟨false, false, [.word 0x00012303, .word 0x00532223], 11, rfl⟩, _, rfl, rfl, by decide⟩

theorem witness_hostRun :
    (∃ s, hostRun false true loadUse = .next s ∧ s.rows.length = 2) ∧
    (∃ s, hostRun false false loadUse = .next s ∧ s.rows.length = 2) :=
  ⟨⟨_, rfl, by decide⟩, ⟨_, rfl, by decide⟩⟩

/-- Two sequences that differ in ignored bits alone: `add` and `sub` (DV15, DV16). -/
theorem witness_same_descriptors : [Entry.word 0x002081B3].map decode = [Entry.word 0x402081B3].map decode := by decide

theorem witness_AcceptedRun :
    ∃ s, start ⟨false, some 4, none⟩ true loadUse = .next s ∧ Host.Core.run core 0 s = Host.Outcome.next s :=
  ⟨_, rfl, rfl⟩

/-- 3.10 at distances 1 and 2: the producer `lw x1, 0(x2)`, a filler `add x10, x30, x31`, the consumers `add x4, x1, x5` (EXE
window) and `sw x5, 4(x1)` (MEM window). -/
theorem witness_StallCounts :
    [Entry.word 0x00012083, .word 0x01FF0533, .word 0x00508233].map decode =
      Instr.load 1 2 :: ([Instr.r 10 30 31] ++ [Instr.r 4 1 5]) ∧
    (Instr.load 1 2).destinationRegister = some 1 ∧
    ([Instr.load 1 2, .r 10 30 31].Pairwise (fun g f => ∀ r, g.destinationRegister = some r → r ∉ f.sourceRegisters)) ∧
    (∀ f ∈ [Instr.r 10 30 31], f.destinationRegister ≠ some 1) ∧
    (∀ C ∈ [Instr.r 4 1 5, .store 1 5], ∀ r ∈ C.sourceRegisters, r ≠ 1 →
      ∀ g ∈ [Instr.load 1 2, .r 10 30 31], g.destinationRegister ≠ some r) ∧
    (1 : RegId) ∈ need (.r 4 1 5) .EXE ∧ (1 : RegId) ∉ need (.store 1 5) .EXE ∧ (1 : RegId) ∈ need (.store 1 5) .MEM := by
  decide

end Sys2Proof.Tests
end

section
/-! SUPPORT. What the shared operations leave unchanged and when a step holds, in the claims' own terms; then the statements about
the state: the tracker's write port, register 0, the mode, the rows. -/

namespace Sys2Proof

open Sys2Proof.Machine

/-! ### The tracker's write port -/

theorem trackerGet_trackerSet_of_ne (A : Tracker) {r r' : RegId} (c : Cycle) (h : r' ≠ r) :
    trackerGet (trackerSet A r c) r' = trackerGet A r' := by
  rw [trackerGet_trackerSet, if_neg h.symm]

@[simp] theorem trackerSet_trackerSet (A : Tracker) (r : RegId) (c c' : Cycle) :
    trackerSet (trackerSet A r c) r c' = trackerSet A r c' := by
  simp [trackerSet]

@[simp] theorem trackerSet_trackerGet (A : Tracker) (r : RegId) : trackerSet A r (trackerGet A r) = A := by
  simp [trackerSet, trackerGet]

/-- Settles O10: one fact about the write port for each clause. -/
theorem trackerSetOverwritesOneEntry : Obligations.TrackerSetOverwritesOneEntry := by
  intro A r c
  exact ⟨trackerGet_trackerSet_same A r c, fun _ h => trackerGet_trackerSet_of_ne A c h,
    trackerSet_trackerSet A r c c, trackerSet_trackerGet A r⟩

/-! ### What starting, finishing and leaving a stage leave unchanged -/

@[simp] theorem startOrDone_rows (s : State) : (startOrDone s).rows = s.rows := by
  obtain ⟨_, -, h⟩ | ⟨-, h⟩ := startOrDone_cases s <;> rw [h]

@[simp] theorem startOrDone_A (s : State) : (startOrDone s).A = s.A := by
  obtain ⟨_, -, h⟩ | ⟨-, h⟩ := startOrDone_cases s <;> rw [h]

@[simp] theorem startOrDone_forwarding (s : State) : (startOrDone s).forwarding = s.forwarding := by
  obtain ⟨_, -, h⟩ | ⟨-, h⟩ := startOrDone_cases s <;> rw [h]

@[simp] theorem finish_rows (s : State) : (finish s).rows = s.rows ++ [s.cur] := startOrDone_rows (retire s)

@[simp] theorem finish_A (s : State) : (finish s).A = s.A := startOrDone_A (retire s)

@[simp] theorem finish_forwarding (s : State) : (finish s).forwarding = s.forwarding :=
  startOrDone_forwarding (retire s)

/-- Everything `leaveStage` can do: move `nxt` on, or finish after WB. -/
theorem leaveStage_cases (s : State) :
    (∃ st, succStage s.nxt = some st ∧ leaveStage s = { s with nxt := st }) ∨
      (s.nxt = .WB ∧ leaveStage s = finish s) := by
  rw [leaveStage_eq]
  cases s.nxt with
  | IF => exact .inl ⟨.ID, rfl, rfl⟩
  | ID => exact .inl ⟨.EXE, rfl, rfl⟩
  | EXE => exact .inl ⟨.MEM, rfl, rfl⟩
  | MEM => exact .inl ⟨.WB, rfl, rfl⟩
  | WB => exact .inr ⟨rfl, rfl⟩

@[simp] theorem leaveStage_A (s : State) : (leaveStage s).A = s.A := by
  obtain ⟨_, -, h⟩ | ⟨-, h⟩ := leaveStage_cases s
  · rw [h]
  · rw [h, finish_A]

@[simp] theorem leaveStage_forwarding (s : State) : (leaveStage s).forwarding = s.forwarding := by
  obtain ⟨_, -, h⟩ | ⟨-, h⟩ := leaveStage_cases s
  · rw [h]
  · rw [h, finish_forwarding]

@[simp] theorem enterStage_A (d : Instr) (c : Cycle) (s : State) :
    (enterStage d c s).A =
      setAvail (anomalyWrite d s.nxt s.storeDataAvailAnomaly) c
        (setAvail (destinationWrite d s.nxt s.forwarding) c s.A) := by
  simp [enterStage]

@[simp] theorem enterStage_forwarding (d : Instr) (c : Cycle) (s : State) :
    (enterStage d c s).forwarding = s.forwarding := by
  simp [enterStage]

/-! ### When a step holds -/

/-- The two hold conditions of R121 in the claims' own terms: stall propagation, or a register of the window not ready. -/
abbrev Held (d : Instr) (s : State) : Prop :=
  PrevHolds s ∨ ∃ r ∈ need d s.nxt, ready s.A r (s.cur.length + 1) = false

/-- Only EXE and MEM have a check window (R120). -/
theorem stage_of_mem_need {d : Instr} {st : Stage} {r : RegId} (h : r ∈ need d st) : st = .EXE ∨ st = .MEM := by
  cases st with
  | IF => cases d <;> cases h
  | ID => cases d <;> cases h
  | EXE => exact .inl rfl
  | MEM => exact .inr rfl
  | WB => cases d <;> cases h

/-- A stage with a check window is held with a bubble. -/
theorem holdCell_of_mem_need {d : Instr} {st : Stage} {r : RegId} (h : r ∈ need d st) : holdCell st = .bubble := by
  obtain rfl | rfl := stage_of_mem_need h <;> rfl

theorem held_iff (d : Instr) (s : State) :
    Held d s ↔ prevBubble s (candidateCycle s) = true ∨ dataHazard d s (candidateCycle s) = true := by
  simp [Held, prevHolds_iff, dataHazard, candidateCycle]

/-- A held step writes the hold cell and nothing else, whichever condition holds it. -/
theorem schedStep_of_held {d : Instr} {s : State} (h : Held d s) :
    schedStep d s = appendCell (holdCell s.nxt) s := by
  obtain ⟨-, hs⟩ | ⟨-, ⟨r, hr, -⟩, hs⟩ | ⟨hp, hr, -⟩ := schedStep_cases d s
  · exact hs
  · rw [hs, holdCell_of_mem_need hr]
  · exfalso
    obtain h | ⟨r, hmem, hn⟩ := h
    · exact (not_prevHolds_iff s).2 hp h
    · rw [(ready_iff _ _ _).2 (hr r hmem)] at hn
      cases hn

/-- A step that is not held enters its stage at the candidate cycle. -/
theorem schedStep_of_not_held {d : Instr} {s : State} (h : ¬ Held d s) :
    schedStep d s = enterStage d (s.cur.length + 1) s := by
  rw [held_iff, not_or] at h
  rw [schedStep, if_neg h.1, if_neg h.2, candidateCycle]

theorem schedStep_forwarding (d : Instr) (s : State) : (schedStep d s).forwarding = s.forwarding := by
  by_cases h : Held d s
  · rw [schedStep_of_held h, appendCell_forwarding]
  · rw [schedStep_of_not_held h, enterStage_forwarding]

/-! ### Register 0 -/

/-- An instruction entering its availability stage records the cycle in its destination's entry, whichever register that is. -/
theorem trackerGet_enterStage_destination {d : Instr} {s : State} {r : RegId} (c : Cycle)
    (hdest : d.destinationRegister = some r) (hstage : availStage s.forwarding d.format = some s.nxt) :
    trackerGet (enterStage d c s).A r = c := by
  have hwrite : destinationWrite d s.nxt s.forwarding = some r :=
    (destinationWrite_eq_some _ _ _ _).2 ⟨hstage, hdest⟩
  simp [trackerGet_setAvail, hwrite]

/-- Settles O31: the facts about every destination and every window, at register 0. -/
theorem registerZeroIsTracked : Obligations.RegisterZeroIsTracked := by
  intro i s hp
  refine ⟨fun hdest hstage hready => ?_, fun hmem hn => ?_⟩
  · have hfree : ¬ Held i s := by
      rintro (h | ⟨r, hr, hn⟩)
      · exact hp h
      · simp [hready r hr] at hn
    refine ⟨_, exec_eq i s, ?_⟩
    rw [schedStep_of_not_held hfree]
    exact trackerGet_enterStage_destination _ hdest hstage
  · rw [exec_eq, schedStep_of_held (.inr ⟨0, hmem, hn⟩), holdCell_of_mem_need hmem, appendCell]

/-! ### The mode

Starting, finishing and leaving a stage read neither the mode nor the tracker, so they commute with a change of both. -/

/-- The state with another mode and another tracker: all that entering a stage in the other mode can change. -/
def withModeAndTracker (b : Bool) (A : Tracker) (s : State) : State := { s with forwarding := b, A := A }

theorem startOrDone_withModeAndTracker (b : Bool) (A : Tracker) (s : State) :
    startOrDone (withModeAndTracker b A s) = withModeAndTracker b A (startOrDone s) := by
  cases h : s.prog[s.i]? with
  | none => rw [startOrDone_none s h]; exact startOrDone_none _ h
  | some e => rw [startOrDone_some s e h]; exact startOrDone_some _ e h

theorem finish_withModeAndTracker (b : Bool) (A : Tracker) (s : State) :
    finish (withModeAndTracker b A s) = withModeAndTracker b A (finish s) :=
  startOrDone_withModeAndTracker b A (retire s)

theorem leaveStage_withModeAndTracker (b : Bool) (A : Tracker) (s : State) :
    leaveStage (withModeAndTracker b A s) = withModeAndTracker b A (leaveStage s) := by
  have hnxt : (withModeAndTracker b A s).nxt = s.nxt := rfl
  rw [leaveStage_eq, leaveStage_eq, hnxt]
  cases s.nxt with
  | WB => exact finish_withModeAndTracker b A s
  | _ => rfl

/-- Entering a stage in another mode differs in the mode and in the tracker, which gets that mode's own writes. -/
theorem enterStage_of_mode (d : Instr) (c : Cycle) (s : State) (b : Bool) :
    enterStage d c { s with forwarding := b } =
      withModeAndTracker b
        (setAvail (anomalyWrite d s.nxt s.storeDataAvailAnomaly) c (setAvail (destinationWrite d s.nxt b) c s.A))
        (enterStage d c s) :=
  leaveStage_withModeAndTracker b _ (availWrite d s.nxt c (appendCell (.stage s.nxt) s))

theorem startState_forwarding (anomaly forwarding : Bool) (prog : List Entry) :
    (startState anomaly forwarding prog).forwarding = forwarding := by
  rw [startState, startOrDone_forwarding, freshState_forwarding]

/-- Starts in two modes differ in the mode alone. -/
theorem startState_of_mode (anomaly forwarding b : Bool) (prog : List Entry) :
    startState anomaly b prog = { startState anomaly forwarding prog with forwarding := b } := by
  have hA : (startState anomaly forwarding prog).A = trackerReset := startOrDone_A _
  calc startState anomaly b prog
      = withModeAndTracker b trackerReset (startState anomaly forwarding prog) :=
        startOrDone_withModeAndTracker b trackerReset (freshState anomaly forwarding prog)
    _ = _ := by rw [← hA, withModeAndTracker]

/-- Settles O39: the hold conditions do not read the mode, a hold writes one cell, and an entry is `enterStage_of_mode`. -/
theorem forwardingSelectsAvailabilityAndNothingElse :
    Obligations.ForwardingSelectsAvailabilityAndNothingElse := by
  refine ⟨fun anomaly forwarding b prog =>
    ⟨startState_forwarding anomaly forwarding prog, startState_of_mode anomaly forwarding b prog⟩, ?_⟩
  intro i s t b ht
  rw [exec_eq] at ht
  cases ht
  have same_hold : Held i { s with forwarding := b } ↔ Held i s := Iff.rfl
  refine ⟨schedStep_forwarding i s, fun (h : Held i s) => ?_, fun (h : ¬ Held i s) => ?_⟩
  · rw [exec_eq, schedStep_of_held h, schedStep_of_held (same_hold.2 h)]
    exact ⟨rfl, rfl⟩
  · rw [exec_eq, schedStep_of_not_held h, schedStep_of_not_held (mt same_hold.1 h), enterStage_of_mode]
    rfl

/-! ### Rows -/

/-- Rows only grow from one state to another: completed rows stay, and the row being written begins the first row completed
since, or the row still being written if none is (R36). -/
def RowsGrow (s t : State) : Prop :=
  ∃ more : List Row, t.rows = s.rows ++ more ∧ s.cur <+: more.headD t.cur

/-- A state with the same completed rows whose row being written is extended. -/
theorem RowsGrow.of_cur_extended {s t : State} (hrows : t.rows = s.rows) (hcur : s.cur <+: t.cur) : RowsGrow s t :=
  ⟨[], by simp [hrows], hcur⟩

theorem RowsGrow.refl (s : State) : RowsGrow s s := .of_cur_extended rfl List.prefix_rfl

theorem RowsGrow.trans {s t u : State} (hst : RowsGrow s t) (htu : RowsGrow t u) : RowsGrow s u := by
  obtain ⟨more, hrows, hcur⟩ := hst
  obtain ⟨more', hrows', hcur'⟩ := htu
  refine ⟨more ++ more', by rw [hrows', hrows, List.append_assoc], ?_⟩
  cases more with
  | nil => exact List.IsPrefix.trans hcur hcur'
  | cons row rest => exact hcur

theorem rowsGrow_appendCell (x : Cell) (s : State) : RowsGrow s (appendCell x s) :=
  .of_cur_extended rfl (List.prefix_append _ _)

theorem rowsGrow_leaveStage (s : State) : RowsGrow s (leaveStage s) := by
  obtain ⟨st, -, h⟩ | ⟨-, h⟩ := leaveStage_cases s
  · exact h ▸ .of_cur_extended rfl List.prefix_rfl
  · exact h ▸ ⟨[s.cur], finish_rows s, List.prefix_rfl⟩

theorem rowsGrow_enterStage (d : Instr) (c : Cycle) (s : State) : RowsGrow s (enterStage d c s) := by
  have hcell : RowsGrow s (availWrite d s.nxt c (appendCell (.stage s.nxt) s)) :=
    .of_cur_extended rfl (List.prefix_append _ _)
  exact hcell.trans (rowsGrow_leaveStage _)

theorem rowsGrow_schedStep (d : Instr) (s : State) : RowsGrow s (schedStep d s) := by
  by_cases h : Held d s
  · exact schedStep_of_held h ▸ rowsGrow_appendCell _ s
  · exact schedStep_of_not_held h ▸ rowsGrow_enterStage d _ s

theorem rowsGrow_step {s t : State} (h : step s = .next t) : RowsGrow s t := by
  obtain ⟨-, hs⟩ | ⟨-, hs⟩ := step_cases s
  · rw [hs] at h; cases h
  · rw [hs] at h; cases h
    exact rowsGrow_schedStep s.desc s

/-- A reflexive and transitive relation that every step meets relates the two ends of any number of steps, from any state. -/
theorem core_run_rel {R : State → State → Prop} (hrefl : ∀ s, R s s) (htrans : ∀ {s t u}, R s t → R t u → R s u)
    (hstep : ∀ {s t}, step s = .next t → R s t) {k : Nat} {s t : State}
    (h : Host.Core.run core k s = Host.Outcome.next t) : R s t := by
  induction k generalizing s with
  | zero => cases h; exact hrefl _
  | succ k ih =>
    cases hs : step s with
    | next u => exact htrans (hstep hs) (ih (core_run_next k s u hs ▸ h))
    | fault f => exact nomatch f
    | refused x => rw [core_run_refused k s x hs] at h; cases h

/-- Settles O40: rows grow at each step, and growth is transitive. -/
theorem rowsAreAppendOnly : Obligations.RowsAreAppendOnly := by
  intro k s t h
  obtain ⟨more, hrows, cells, hcur⟩ : RowsGrow s t := core_run_rel .refl .trans rowsGrow_step h
  refine ⟨more, hrows, ?_, ?_⟩
  · rintro rfl
    exact ⟨cells, hcur.symm⟩
  · rintro row rest rfl
    exact ⟨cells, hcur.symm⟩

end Sys2Proof
end

section
/-! SUPPORT. The decoder's field extraction as arithmetic on the word, and the descriptor its format assembles; then the statement
about the descriptor. -/

namespace Sys2Proof

/-! ### The fields of a word -/

theorem slice_eq_div_mod (w : Word) (hi lo : Nat) :
    slice w hi lo = w.toNat / 2 ^ lo % 2 ^ (hi + 1 - lo) := by
  rw [slice, Nat.shiftRight_eq_div_pow]

theorem opcode_eq_mod (w : Word) : opcode w = w.toNat % 128 := by
  simp [opcode, slice_eq_div_mod]

/-- A slice five bits wide is a register id: reducing it to one loses nothing, and keeps of the shifted word just those bits. -/
theorem ofNat_slice_of_width_five (w : Word) {hi lo : Nat} (hwidth : hi + 1 - lo = 5) :
    (Fin.ofNat 32 (slice w hi lo) : RegId) = Fin.ofNat 32 (w.toNat / 2 ^ lo) := by
  rw [slice_eq_div_mod, hwidth]
  exact Fin.ext (Nat.mod_mod _ 32)

theorem fieldRd_eq (w : Word) : fieldRd w = Fin.ofNat 32 (w.toNat / 2 ^ 7) := ofNat_slice_of_width_five w rfl

theorem fieldRs1_eq (w : Word) : fieldRs1 w = Fin.ofNat 32 (w.toNat / 2 ^ 15) := ofNat_slice_of_width_five w rfl

theorem fieldRs2_eq (w : Word) : fieldRs2 w = Fin.ofNat 32 (w.toNat / 2 ^ 20) := ofNat_slice_of_width_five w rfl

/-! ### The format and the descriptor -/

/-- The opcode map's default (R70). -/
theorem formatOfOpcode_of_not_mem {op : Nat}
    (h : op ∉ [0b0110011, 0b0010011, 0b0000011, 0b0100011, 0b1100011, 0b0110111, 0b0010111]) :
    formatOfOpcode op = .UNKNOWN := by
  simp only [List.mem_cons, List.not_mem_nil, or_false, not_or] at h
  obtain ⟨hR, hI, hLoad, hStore, hBranch, hLui, hAuipc⟩ := h
  rw [formatOfOpcode, if_neg hR, if_neg hI, if_neg hLoad, if_neg hStore, if_neg hBranch, if_neg hLui, if_neg hAuipc]

/-- A word of a known format decodes to what that format assembles from the three fields of R63 to R65. -/
theorem decode_word_of_format {w : Word} {f : Format} (h : formatOfOpcode (w.toNat % 128) = f) :
    decode (.word w) = assemble f (Fin.ofNat 32 (w.toNat / 2 ^ 7)) (Fin.ofNat 32 (w.toNat / 2 ^ 15))
      (Fin.ofNat 32 (w.toNat / 2 ^ 20)) := by
  rw [decode, decodeWord, opcode_eq_mod, h, fieldRd_eq, fieldRs1_eq, fieldRs2_eq]

/-- Settles O5: each clause's opcode fixes the format, and the format assembles its descriptor from the fields. -/
theorem descriptorCarriesTheFieldsOfItsFormat : Obligations.DescriptorCarriesTheFieldsOfItsFormat := by
  intro w rd rs1 rs2 d op
  have descriptor_of {f : Format} (h : formatOfOpcode op = f) : d = (assemble f rd rs1 rs2).descriptor :=
    congrArg Instr.descriptor (decode_word_of_format h)
  have descriptor_at {v : Nat} (h : op = v) : d = (assemble (formatOfOpcode v) rd rs1 rs2).descriptor :=
    descriptor_of (congrArg formatOfOpcode h)
  exact ⟨descriptor_at, descriptor_at, descriptor_at, descriptor_at, descriptor_at, descriptor_at, descriptor_at,
    fun h => descriptor_of (formatOfOpcode_of_not_mem h)⟩

end Sys2Proof
end

section
/-! SUPPORT. Replacing the sequence by one that decodes alike commutes with every operation of a run; then the statement that the
scheduler sees only descriptors. -/

namespace Sys2Proof

open Sys2Proof.Machine

/-! ### No operation writes the sequence -/

@[simp] theorem startOrDone_prog (s : State) : (startOrDone s).prog = s.prog := by
  obtain ⟨_, -, h⟩ | ⟨-, h⟩ := startOrDone_cases s <;> rw [h]

@[simp] theorem finish_prog (s : State) : (finish s).prog = s.prog := startOrDone_prog (retire s)

@[simp] theorem leaveStage_prog (s : State) : (leaveStage s).prog = s.prog := by
  obtain ⟨_, -, h⟩ | ⟨-, h⟩ := leaveStage_cases s
  · rw [h]
  · rw [h, finish_prog]

@[simp] theorem enterStage_prog (d : Instr) (c : Cycle) (s : State) : (enterStage d c s).prog = s.prog := by
  simp [enterStage]

theorem startState_prog (anomaly forwarding : Bool) (prog : List Entry) :
    (startState anomaly forwarding prog).prog = prog := by
  rw [startState, startOrDone_prog, freshState_prog]

theorem schedStep_prog (d : Instr) (s : State) : (schedStep d s).prog = s.prog := by
  by_cases h : Held d s
  · rw [schedStep_of_held h, appendCell_prog]
  · rw [schedStep_of_not_held h, enterStage_prog]

/-- Exactly when a step answers a next state, and which. -/
theorem step_eq_next_iff {s t : State} : step s = .next t ↔ s.done = false ∧ schedStep s.desc s = t := by
  obtain ⟨hdone, hs⟩ | ⟨hdone, hs⟩ := step_cases s <;> simp [hs, hdone]

theorem step_prog {s t : State} (h : step s = .next t) : t.prog = s.prog := by
  obtain ⟨-, rfl⟩ := step_eq_next_iff.1 h
  exact schedStep_prog s.desc s

/-! ### Another sequence that decodes alike

The entry at `i` is read only when an instruction is started, and then only decoded: `startOrDone` is where the premise is used. -/

/-- The state with another sequence. -/
def withProg (prog' : List Entry) (s : State) : State := { s with prog := prog' }

section AnotherSequence
variable {s : State} {prog' : List Entry}

theorem startOrDone_withProg (h : s.prog.map decode = prog'.map decode) :
    startOrDone (withProg prog' s) = withProg prog' (startOrDone s) := by
  have hget : (s.prog[s.i]?).map decode = (prog'[s.i]?).map decode := by
    rw [← List.getElem?_map, h, List.getElem?_map]
  cases he : s.prog[s.i]? with
  | none =>
    have he' : prog'[s.i]? = none := by simpa [he] using hget.symm
    rw [startOrDone_none s he]
    exact startOrDone_none _ he'
  | some e =>
    obtain ⟨e', he', hdecode⟩ : ∃ e', prog'[s.i]? = some e' ∧ decode e' = decode e := by
      simpa [he] using hget.symm
    rw [startOrDone_some s e he, startOrDone_some (withProg prog' s) e' he', startInstr, hdecode]
    rfl

theorem finish_withProg (h : s.prog.map decode = prog'.map decode) :
    finish (withProg prog' s) = withProg prog' (finish s) :=
  startOrDone_withProg (s := retire s) h

theorem leaveStage_withProg (h : s.prog.map decode = prog'.map decode) :
    leaveStage (withProg prog' s) = withProg prog' (leaveStage s) := by
  have hnxt : (withProg prog' s).nxt = s.nxt := rfl
  rw [leaveStage_eq, leaveStage_eq, hnxt]
  cases s.nxt with
  | WB => exact finish_withProg h
  | _ => rfl

theorem enterStage_withProg (h : s.prog.map decode = prog'.map decode) (d : Instr) (c : Cycle) :
    enterStage d c (withProg prog' s) = withProg prog' (enterStage d c s) :=
  leaveStage_withProg (s := availWrite d s.nxt c (appendCell (.stage s.nxt) s)) h

/-- The hold conditions do not read the sequence, and a hold writes one cell. -/
theorem schedStep_withProg (h : s.prog.map decode = prog'.map decode) (d : Instr) :
    schedStep d (withProg prog' s) = withProg prog' (schedStep d s) := by
  have same_hold : Held d (withProg prog' s) ↔ Held d s := Iff.rfl
  by_cases hd : Held d s
  · rw [schedStep_of_held hd, schedStep_of_held (same_hold.2 hd)]
    rfl
  · rw [schedStep_of_not_held hd, schedStep_of_not_held (mt same_hold.1 hd)]
    exact enterStage_withProg h d _

theorem step_withProg (h : s.prog.map decode = prog'.map decode) {t : State} (ht : step s = .next t) :
    step (withProg prog' s) = .next (withProg prog' t) := by
  obtain ⟨hdone, rfl⟩ := step_eq_next_iff.1 ht
  exact step_eq_next_iff.2 ⟨hdone, schedStep_withProg h s.desc⟩

/-- The simulation: a run over the other sequence takes the same steps. -/
theorem core_run_withProg (h : s.prog.map decode = prog'.map decode) {k : Nat} {t : State}
    (ht : Host.Core.run core k s = Host.Outcome.next t) :
    Host.Core.run core k (withProg prog' s) = Host.Outcome.next (withProg prog' t) := by
  induction k generalizing s with
  | zero => cases ht; exact core_run_zero _
  | succ k ih =>
    cases hs : step s with
    | next u =>
      rw [core_run_next k s u hs] at ht
      rw [core_run_next k _ _ (step_withProg h hs)]
      exact ih (step_prog hs ▸ h) ht
    | fault f => exact nomatch f
    | refused x => rw [core_run_refused k s x hs] at ht; cases ht

end AnotherSequence

theorem startState_withProg (anomaly forwarding : Bool) {prog prog' : List Entry}
    (h : prog.map decode = prog'.map decode) :
    startState anomaly forwarding prog' = withProg prog' (startState anomaly forwarding prog) :=
  startOrDone_withProg (s := freshState anomaly forwarding prog) h

/-- Settles O54: the starts differ in the sequence alone, and so do the runs from them. -/
theorem schedulerSeesOnlyDescriptors : Obligations.SchedulerSeesOnlyDescriptors := by
  intro anomaly forwarding prog prog' h k s hs
  rw [startState_withProg anomaly forwarding h]
  exact core_run_withProg (by rw [startState_prog, h]) hs

end Sys2Proof
end

section
/-! SUPPORT. One step of the scheduler as the table of the stage-occupancy state machine, and the registers of each check window; then
the statements about one step of every class. -/

namespace Sys2Proof

open Sys2Proof.Machine

/-- Settles O18: every meaning is one step of the scheduler, which is a total function. -/
theorem everyInstructionAnswersNext : Obligations.EveryInstructionAnswersNext :=
  fun i s => ⟨schedStep i s, exec_eq i s⟩

/-! ### What no step writes -/

@[simp] theorem startOrDone_storeDataAvailAnomaly (s : State) :
    (startOrDone s).storeDataAvailAnomaly = s.storeDataAvailAnomaly := by
  obtain ⟨_, -, h⟩ | ⟨-, h⟩ := startOrDone_cases s <;> rw [h]

@[simp] theorem finish_storeDataAvailAnomaly (s : State) :
    (finish s).storeDataAvailAnomaly = s.storeDataAvailAnomaly :=
  startOrDone_storeDataAvailAnomaly (retire s)

@[simp] theorem leaveStage_storeDataAvailAnomaly (s : State) :
    (leaveStage s).storeDataAvailAnomaly = s.storeDataAvailAnomaly := by
  obtain ⟨_, -, h⟩ | ⟨-, h⟩ := leaveStage_cases s
  · rw [h]
  · rw [h, finish_storeDataAvailAnomaly]

@[simp] theorem enterStage_storeDataAvailAnomaly (d : Instr) (c : Cycle) (s : State) :
    (enterStage d c s).storeDataAvailAnomaly = s.storeDataAvailAnomaly := by
  simp [enterStage]

theorem schedStep_storeDataAvailAnomaly (d : Instr) (s : State) :
    (schedStep d s).storeDataAvailAnomaly = s.storeDataAvailAnomaly := by
  by_cases h : Held d s
  · rw [schedStep_of_held h, appendCell_storeDataAvailAnomaly]
  · rw [schedStep_of_not_held h, enterStage_storeDataAvailAnomaly]

/-- Settles O33: the three frame lemmas of a step. -/
theorem modeAndSequenceAreNeverWritten : Obligations.ModeAndSequenceAreNeverWritten := by
  intro i s t h
  rw [exec_eq] at h
  cases h
  exact ⟨schedStep_forwarding i s, schedStep_prog i s, schedStep_storeDataAvailAnomaly i s⟩

/-! ### Holding and entering -/

/-- A held instruction of any class writes `BLANK` before its IF and a bubble afterward (R122). -/
theorem exec_of_held {d : Instr} {s : State} (h : Held d s) :
    exec d s = .next { s with cur := s.cur ++ [if s.nxt = .IF then Cell.blank else Cell.bubble] } := by
  rw [exec_eq, schedStep_of_held h, holdCell_eq, appendCell]

theorem exec_of_not_held {d : Instr} {s : State} (h : ¬ Held d s) :
    exec d s = .next (enterStage d (s.cur.length + 1) s) := by
  rw [exec_eq, schedStep_of_not_held h]

/-- The state with the label of `nxt` and its availability write made, before the instruction moves on. -/
abbrev labelWritten (d : Instr) (s : State) : State :=
  availWrite d s.nxt (s.cur.length + 1) (appendCell (.stage s.nxt) s)

/-- Everything a step can do, by what becomes of the instruction: it is held, moves on to the next stage, or finishes after WB. -/
theorem schedStep_outcomes (d : Instr) (s : State) :
    (Held d s ∧ schedStep d s = appendCell (holdCell s.nxt) s) ∨
      (¬ Held d s ∧ ∃ st, succStage s.nxt = some st ∧ schedStep d s = { labelWritten d s with nxt := st }) ∨
      (¬ Held d s ∧ s.nxt = .WB ∧ schedStep d s = finish (labelWritten d s)) := by
  by_cases h : Held d s
  · exact .inl ⟨h, schedStep_of_held h⟩
  · rw [schedStep_of_not_held h, enterStage]
    obtain ⟨st, hst, hleave⟩ | ⟨hWB, hleave⟩ := leaveStage_cases (labelWritten d s)
    · exact .inr (.inl ⟨h, st, hst, hleave⟩)
    · exact .inr (.inr ⟨h, hWB, hleave⟩)

/-- No result becomes available before EXE (R126). -/
theorem stage_of_availStage {f : Bool} {fmt : Format} {st : Stage} (h : availStage f fmt = some st) :
    st ≠ .IF ∧ st ≠ .ID := by
  cases fmt <;> cases f <;> cases h <;> decide

/-- Entering IF or ID makes no availability write (R127). -/
theorem availWrite_of_before_EXE (d : Instr) {st : Stage} (h : st = .IF ∨ st = .ID) (c : Cycle) (s : State) :
    availWrite d st c s = s := by
  have hdest : destinationWrite d st s.forwarding = none := by
    refine if_neg fun hst => ?_
    obtain ⟨hIF, hID⟩ := stage_of_availStage hst
    exact h.elim hIF hID
  have hanomaly : anomalyWrite d st s.storeDataAvailAnomaly = none := by
    refine if_neg fun ⟨_, hst⟩ => ?_
    obtain rfl | rfl := h <;> cases hst
  rw [availWrite, hdest, hanomaly]
  rfl

/-- What entering a stage does: the rows of the table of R123 whose condition is "otherwise". -/
theorem enterStage_eq (d : Instr) (c : Cycle) (s : State) :
    enterStage d c s =
      match s.nxt with
      | .IF => { s with cur := s.cur ++ [Cell.stage .IF], nxt := .ID }
      | .ID => { s with cur := s.cur ++ [Cell.stage .ID], nxt := .EXE }
      | .EXE => { availWrite d .EXE c s with cur := s.cur ++ [Cell.stage .EXE], nxt := .MEM }
      | .MEM => { availWrite d .MEM c s with cur := s.cur ++ [Cell.stage .MEM], nxt := .WB }
      | .WB => finish { availWrite d .WB c s with cur := s.cur ++ [Cell.stage .WB] } := by
  rw [enterStage, leaveStage_eq, availWrite_nxt, appendCell_nxt]
  cases h : s.nxt with
  | IF => rw [availWrite_of_before_EXE d (.inl rfl)]; rfl
  | ID => rw [availWrite_of_before_EXE d (.inr rfl)]; rfl
  | EXE => rfl
  | MEM => rfl
  | WB => rfl

/-- Settles O19: propagation is one of the two hold conditions, and the other never holds before IF. -/
theorem stallPropagationHoldsEveryClass : Obligations.StallPropagationHoldsEveryClass := by
  intro i s
  refine ⟨fun hp => exec_of_held (.inl hp), fun hp hnxt => ?_⟩
  have hfree : ¬ Held i s := by
    rintro (h | ⟨r, hr, -⟩)
    · exact hp h
    · rw [hnxt] at hr
      obtain h | h := stage_of_mem_need hr <;> cases h
  rw [exec_of_not_held hfree, enterStage_eq, hnxt]

/-- Settles O20: a step is held or enters its stage, and entering is `enterStage_eq`. -/
theorem stageMachineFollowsItsTable : Obligations.StageMachineFollowsItsTable := by
  intro i s c hazard
  refine ⟨exec_of_held, fun ⟨r, hr, _⟩ => stage_of_mem_need hr, fun (hfree : ¬ Held i s) => ?_⟩
  rw [exec_of_not_held hfree, enterStage_eq]
  refine ⟨?_, ?_, ?_, ?_, ?_⟩ <;> intro hnxt <;> rw [hnxt]

/-! ### The check windows (R120) -/

theorem mem_need_r {rd rs1 rs2 r : RegId} {st : Stage} :
    r ∈ need (.r rd rs1 rs2) st ↔ st = .EXE ∧ (r = rs1 ∨ r = rs2) := by
  cases st <;> simp [need]

theorem mem_need_branch {rs1 rs2 r : RegId} {st : Stage} :
    r ∈ need (.branch rs1 rs2) st ↔ st = .EXE ∧ (r = rs1 ∨ r = rs2) := by
  cases st <;> simp [need]

theorem mem_need_i {rd rs1 r : RegId} {st : Stage} : r ∈ need (.i rd rs1) st ↔ st = .EXE ∧ r = rs1 := by
  cases st <;> simp [need]

theorem mem_need_load {rd rs1 r : RegId} {st : Stage} : r ∈ need (.load rd rs1) st ↔ st = .EXE ∧ r = rs1 := by
  cases st <;> simp [need]

theorem mem_need_store {rs1 rs2 r : RegId} {st : Stage} :
    r ∈ need (.store rs1 rs2) st ↔ (st = .EXE ∧ r = rs2) ∨ (st = .MEM ∧ r = rs1) := by
  cases st <;> simp [need]

theorem need_lui (rd : RegId) (st : Stage) : need (.lui rd) st = [] := by cases st <;> rfl

theorem need_auipc (rd : RegId) (st : Stage) : need (.auipc rd) st = [] := by cases st <;> rfl

theorem need_unknown (st : Stage) : need .unknown st = [] := by cases st <;> rfl

/-- With no bubble before it, an instruction is held exactly when a register of its window is not ready: a step that is not held
writes a label or completes the row, so it does not look like a hold. -/
theorem exec_eq_bubble_iff {d : Instr} {s : State} (hp : ¬ PrevHolds s) :
    exec d s = .next { s with cur := s.cur ++ [Cell.bubble] } ↔
      ∃ r ∈ need d s.nxt, ¬ ready s.A r (s.cur.length + 1) = true := by
  simp only [exec_eq, Host.Outcome.next.injEq, Bool.not_eq_true]
  obtain ⟨hheld, hs⟩ | ⟨hfree, st, -, hs⟩ | ⟨hfree, -, hs⟩ := schedStep_outcomes d s
  · obtain ⟨r, hr, hn⟩ := hheld.resolve_left hp
    rw [hs, holdCell_of_mem_need hr, appendCell]
    exact iff_of_true rfl ⟨r, hr, hn⟩
  · refine iff_of_false (fun h => ?_) fun h => hfree (.inr h)
    have hcur := congrArg State.cur (hs.symm.trans h)
    simp at hcur
  · refine iff_of_false (fun h => ?_) fun h => hfree (.inr h)
    have hrows := congrArg State.rows (hs.symm.trans h)
    simp at hrows

/-- Settles O21: held means a register of the window not ready, and the windows of each class are `mem_need_*` and `need_*`. -/
theorem checkWindowsHoldOnTheirRegisters : Obligations.CheckWindowsHoldOnTheirRegisters := by
  intro s hp ok held
  have held_iff_window (i : Instr) : held i ↔ ∃ r ∈ need i s.nxt, ¬ ok r := exec_eq_bubble_iff hp
  refine ⟨fun rd rs1 rs2 => ?_, fun rs1 rs2 => ?_, fun rd rs1 => ?_, fun rd rs1 => ?_, fun rs1 rs2 => ?_,
    fun rd => ?_, fun rd => ?_, ?_⟩ <;> rw [held_iff_window]
  · simp [mem_need_r, and_assoc, imp_iff_not_or]
  · simp [mem_need_branch, and_assoc, imp_iff_not_or]
  · simp [mem_need_i, and_assoc]
  · simp [mem_need_load, and_assoc]
  · simp [mem_need_store, or_and_right, exists_or, and_assoc]
  · simp [need_lui]
  · simp [need_auipc]
  · simp [need_unknown]

end Sys2Proof
end

section
/-! SUPPORT. Every step keeps the invariant `StateInv`: once for a step that writes a cell of the row, once for finishing the row. -/

namespace Sys2Proof

open Sys2Proof.Machine

/-! ### The tracker and the row in hand -/

/-- The availability writes of a step at cycle `c` leave each entry as it was or at `c`. -/
theorem trackerGet_availWrite_le (d : Instr) (st : Stage) (c : Cycle) (s : State) (r : RegId) :
    trackerGet (availWrite d st c s).A r ≤ max (trackerGet s.A r) c := by
  rw [availWrite_A, trackerGet_setAvail, trackerGet_setAvail]
  split
  · exact le_max_right _ _
  · split
    · exact le_max_right _ _
    · exact le_max_left _ _

/-- If every entry is a cycle some row has reached, it still is when the row in hand gets a cell and entries move to that cell's
cycle at most. -/
theorem tracked_of_cell_written {A A' : Tracker} {cur : Row} {rows : List Row} (x : Cell)
    (h : ∀ r, ∃ row ∈ cur :: rows, trackerGet A r ≤ row.length)
    (hA : ∀ r, trackerGet A' r ≤ max (trackerGet A r) (cur.length + 1)) (r : RegId) :
    ∃ row ∈ (cur ++ [x]) :: rows, trackerGet A' r ≤ row.length := by
  have hlen : (cur ++ [x]).length = cur.length + 1 := by simp
  obtain ⟨row, hmem, hrow⟩ := h r
  rcases le_max_iff.1 (hA r) with hold | hnew
  · rcases List.mem_cons.1 hmem with rfl | hmem
    · exact ⟨row ++ [x], List.mem_cons_self, (hold.trans hrow).trans (hlen ▸ Nat.le_succ _)⟩
    · exact ⟨row, List.mem_cons_of_mem _ hmem, hold.trans hrow⟩
  · exact ⟨cur ++ [x], List.mem_cons_self, hlen ▸ hnew⟩

/-- The padding of a new row is `BLANK` cells only (R117). -/
theorem scanRow_padding (s : State) : scanRow (padding s) = some (some .IF) := by
  unfold padding
  split
  · exact scanRow_nil
  · exact scanRow_replicate_blank _

/-! ### The invariant -/

theorem StateInv.i_lt {s : State} (h : StateInv s) (hdone : s.done = false) : s.i < s.prog.length := by
  obtain ⟨hle, -, hiff, -⟩ := h
  refine Nat.lt_of_le_of_ne hle fun heq => ?_
  rw [hiff.2 heq] at hdone
  cases hdone

/-- The invariant survives a step that writes one cell of the row in hand, fitting where the row stands, and leaves each tracker
entry as it was or at the cell's cycle. -/
theorem StateInv.of_cell_written {s t : State} (h : StateInv s) {x : Cell} (hrun : s.done = false)
    (hprog : t.prog = s.prog) (hi : t.i = s.i) (hdesc : t.desc = s.desc) (hrows : t.rows = s.rows)
    (hdone : t.done = s.done) (hcur : t.cur = s.cur ++ [x])
    (hscan : scanCell (some (some s.nxt)) x = some (some t.nxt))
    (hA : ∀ r, trackerGet t.A r ≤ max (trackerGet s.A r) (s.cur.length + 1)) : StateInv t := by
  obtain ⟨hle, hlen, hiff, hdec, hcomplete, hwritten, htracked⟩ := h
  refine ⟨by rwa [hi, hprog], by rwa [hrows, hi], by rwa [hdone, hi, hprog], fun _ => ?_, by rwa [hrows], fun _ => ?_,
    fun r => ?_⟩
  · rw [hprog, hi, hdesc]
    exact hdec hrun
  · rw [hcur, scanRow_append, hwritten hrun, hscan]
  · rw [hcur, hrows]
    exact tracked_of_cell_written x htracked hA r

/-- Starting the next instruction, or ending the run, gives the invariant where every completed row is complete and every tracker
entry is 0 or a cycle one of them has reached. -/
theorem stateInv_startOrDone {s : State} (hrun : s.done = false) (hle : s.i ≤ s.prog.length) (hlen : s.rows.length = s.i)
    (hcomplete : ∀ row ∈ s.rows, scanRow row = some none)
    (hA : ∀ r, trackerGet s.A r = 0 ∨ ∃ row ∈ s.rows, trackerGet s.A r ≤ row.length) : StateInv (startOrDone s) := by
  have hA' (cur : Row) (r : RegId) : ∃ row ∈ cur :: s.rows, trackerGet s.A r ≤ row.length := by
    obtain h0 | ⟨row, hmem, hrow⟩ := hA r
    · exact ⟨cur, List.mem_cons_self, h0 ▸ Nat.zero_le _⟩
    · exact ⟨row, List.mem_cons_of_mem _ hmem, hrow⟩
  obtain ⟨e, he, hstart⟩ | ⟨hend, hstart⟩ := startOrDone_cases s
  · have hlt : s.i < s.prog.length := (List.getElem?_eq_some_iff.1 he).1
    rw [hstart]
    exact ⟨hle, hlen, by simp [hrun, hlt.ne], fun _ => by simp [he], hcomplete, fun _ => scanRow_padding s, hA' _⟩
  · have heq : s.i = s.prog.length := Nat.le_antisymm hle hend
    rw [hstart]
    exact ⟨hle, hlen, by simp [heq], by simp, hcomplete, by simp, hA' _⟩

/-- The invariant survives finishing a complete row. -/
theorem stateInv_finish {s : State} (hrun : s.done = false) (hlt : s.i < s.prog.length) (hlen : s.rows.length = s.i)
    (hcomplete : ∀ row ∈ s.rows, scanRow row = some none) (hcur : scanRow s.cur = some none)
    (hA : ∀ r, ∃ row ∈ s.cur :: s.rows, trackerGet s.A r ≤ row.length) : StateInv (finish s) := by
  refine stateInv_startOrDone (s := retire s) hrun hlt (by simp [hlen]) ?_ fun r => .inr ?_
  · simpa [or_imp, forall_and] using And.intro hcomplete hcur
  · simpa [or_comm] using hA r

/-- Every step keeps the invariant. -/
theorem stateInv_schedStep {s : State} (h : StateInv s) (hrun : s.done = false) (d : Instr) :
    StateInv (schedStep d s) := by
  obtain ⟨-, hs⟩ | ⟨-, st, hst, hs⟩ | ⟨-, hWB, hs⟩ := schedStep_outcomes d s
  · rw [hs]
    exact h.of_cell_written hrun rfl rfl rfl rfl rfl rfl (scanCell_hold s.nxt) fun r => le_max_left _ _
  · have hscan : scanCell (some (some s.nxt)) (.stage s.nxt) = some (some st) := by rw [scanCell_label, hst]
    rw [hs]
    exact h.of_cell_written hrun rfl rfl rfl rfl rfl rfl hscan fun r => trackerGet_availWrite_le d _ _ _ r
  · have hlt := h.i_lt hrun
    obtain ⟨-, hlen, -, -, hcomplete, hwritten, htracked⟩ := h
    rw [hs]
    refine stateInv_finish hrun hlt hlen hcomplete ?_
      (tracked_of_cell_written _ htracked fun r => trackerGet_availWrite_le d _ _ _ r)
    rw [availWrite_cur, appendCell_cur, scanRow_append, hwritten hrun, scanCell_label, hWB]
    rfl

/-- The invariant holds at every start. -/
theorem stateInv_startState (anomaly forwarding : Bool) (prog : List Entry) :
    StateInv (startState anomaly forwarding prog) :=
  stateInv_startOrDone rfl (Nat.zero_le _) rfl (by simp) fun r => .inl (trackerGet_trackerReset r)

end Sys2Proof
end

section
/-! SUPPORT. Every run ends. R142 bounds row `i` by `3i + 5` cells; here a plainer bound is enough: past the end of the row before it no
instruction is held, so each row is at most five cells longer than the longest row before it, and the sum of the bounds `5(i + 1)` is
within `n(3n + 2)`. -/

namespace Sys2Proof

open Sys2Proof.Machine

/-! ### A completed row ends with its WB cell -/

theorem eq_WB_of_scanCell {at' : Option (Option Stage)} {x : Cell} (h : scanCell at' x = some none) :
    x = .stage .WB := by
  unfold scanCell at h
  split at h
  case h_2 st st' =>
    split at h
    case isTrue heq =>
      subst heq
      cases st with
      | WB => rfl
      | _ => cases h
    case isFalse => cases h
  all_goals cases h

theorem getLast?_of_scanRow {row : Row} (h : scanRow row = some none) : row.getLast? = some (.stage .WB) := by
  obtain rfl | ⟨cells, x, rfl⟩ := List.eq_nil_or_concat row
  · cases h
  · rw [List.concat_eq_append, scanRow_append] at h
    rw [eq_WB_of_scanCell h, List.concat_eq_append, List.getLast?_concat]

/-! ### Row lengths -/

/-- How many stages an instruction that waits to enter a stage has entered. -/
def stagesEntered : Stage → Nat
  | .IF => 0
  | .ID => 1
  | .EXE => 2
  | .MEM => 3
  | .WB => 4

theorem stagesEntered_succStage {st st' : Stage} (h : succStage st = some st') :
    stagesEntered st' = stagesEntered st + 1 := by
  cases st <;> cases h <;> rfl

theorem stagesEntered_le (st : Stage) : stagesEntered st ≤ 4 := by
  cases st <;> decide

/-- Row lengths of a state: no completed row is longer than `5i`, and the row in hand is past that by at most the stages entered. -/
def RowsBounded (s : State) : Prop :=
  (∀ row ∈ s.rows, row.length ≤ 5 * s.i) ∧ (s.done = false → s.cur.length ≤ 5 * s.i + stagesEntered s.nxt)

theorem RowsBounded.cur_lt {s : State} (h : RowsBounded s) (hrun : s.done = false) : s.cur.length < 5 * (s.i + 1) := by
  have hcur := h.2 hrun
  have hst := stagesEntered_le s.nxt
  omega

theorem ifCycle_le_length (row : Row) : ifCycle row ≤ row.length := by
  unfold ifCycle labelCycle
  cases h : row.findIdx? (· == .stage .IF) with
  | none => exact Nat.zero_le _
  | some k => exact (List.findIdx?_eq_some_iff_getElem.1 h).1

theorem mem_rows_of_prevRow {s : State} {row : Row} (h : prevRow s = some row) : row ∈ s.rows := by
  obtain h0 | hpos := Nat.eq_zero_or_pos s.i
  · rw [prevRow_of_zero s h0] at h; cases h
  · rw [prevRow_of_pos s hpos] at h
    exact List.mem_of_getElem? h

theorem padding_length_le {s : State} {n : Nat} (h : ∀ row ∈ s.rows, row.length ≤ n) : (padding s).length ≤ n := by
  unfold padding
  cases hrow : prevRow s with
  | none => exact Nat.zero_le _
  | some row =>
    rw [List.length_replicate]
    exact (ifCycle_le_length row).trans (h row (mem_rows_of_prevRow hrow))

/-- An instruction is held only while its row is shorter than some completed row: what holds it is a bubble of the row before it,
or a tracker entry, and the invariant bounds each entry by a row. -/
theorem exists_longer_row_of_held {s : State} (h : StateInv s) {d : Instr} (hheld : Held d s) :
    ∃ row ∈ s.rows, s.cur.length < row.length := by
  obtain ⟨-, -, -, -, -, -, htracked⟩ := h
  obtain ⟨-, hcell⟩ | ⟨r, -, hn⟩ := hheld
  · obtain ⟨row, hrow, hcell⟩ := Option.bind_eq_some_iff.1 hcell
    exact ⟨row, List.mem_of_getElem? hrow, (List.getElem?_eq_some_iff.1 hcell).1⟩
  · have hlt : s.cur.length < trackerGet s.A r := by simpa [ready] using hn
    obtain ⟨row, hmem, hrow⟩ := htracked r
    obtain rfl | hmem := List.mem_cons.1 hmem
    · exact absurd hrow (Nat.not_le.2 hlt)
    · exact ⟨row, hmem, hlt.trans_le hrow⟩

theorem rowsBounded_startOrDone {s : State} (h : ∀ row ∈ s.rows, row.length ≤ 5 * s.i) : RowsBounded (startOrDone s) := by
  obtain ⟨e, -, hstart⟩ | ⟨-, hstart⟩ := startOrDone_cases s
  · rw [hstart]
    exact ⟨h, fun _ => padding_length_le h⟩
  · rw [hstart]
    exact ⟨h, by simp⟩

theorem rowsBounded_schedStep {s : State} (hinv : StateInv s) (h : RowsBounded s) (hrun : s.done = false) (d : Instr) :
    RowsBounded (schedStep d s) := by
  have hlt := h.cur_lt hrun
  obtain ⟨hrows, hcur⟩ := h
  have hcur := hcur hrun
  obtain ⟨hheld, hs⟩ | ⟨-, st, hst, hs⟩ | ⟨-, -, hs⟩ := schedStep_outcomes d s
  · obtain ⟨row, hmem, hshort⟩ := exists_longer_row_of_held hinv hheld
    have hrow := hrows row hmem
    rw [hs]
    refine ⟨hrows, fun _ => ?_⟩
    simp only [appendCell_cur, appendCell_i, List.length_append, List.length_singleton]
    omega
  · rw [hs]
    refine ⟨hrows, fun _ => ?_⟩
    simp only [availWrite_cur, availWrite_i, appendCell_cur, appendCell_i, stagesEntered_succStage hst, List.length_append,
      List.length_singleton]
    omega
  · rw [hs]
    refine rowsBounded_startOrDone fun row hmem => ?_
    have hmem : row ∈ s.rows ∨ row = s.cur ++ [.stage s.nxt] := by simpa using hmem
    simp only [retire_i, availWrite_i, appendCell_i]
    obtain hmem | rfl := hmem
    · have hrow := hrows row hmem
      omega
    · rw [List.length_append, List.length_singleton]
      omega

/-! ### The cells a run still writes -/

/-- A bound on the cells still to be written: row `j` has at most `5(j + 1)`, and `cur` is there already. -/
def cellsLeft (s : State) : Nat := ∑ j ∈ Finset.Ico s.i s.prog.length, 5 * (j + 1) - s.cur.length

@[simp] theorem startOrDone_i (s : State) : (startOrDone s).i = s.i := by
  obtain ⟨_, -, h⟩ | ⟨-, h⟩ := startOrDone_cases s <;> rw [h]

@[simp] theorem finish_i (s : State) : (finish s).i = s.i + 1 := startOrDone_i (retire s)

/-- The bound falls if the row in hand grows, or if the next row is started whatever its padding. -/
theorem cellsLeft_lt {s t : State} (hlt : s.i < s.prog.length) (hcur : s.cur.length < 5 * (s.i + 1))
    (hprog : t.prog = s.prog) (h : (t.i = s.i ∧ s.cur.length < t.cur.length) ∨ t.i = s.i + 1) :
    cellsLeft t < cellsLeft s := by
  have hsum := Finset.sum_eq_sum_Ico_succ_bot hlt fun j => 5 * (j + 1)
  unfold cellsLeft
  obtain ⟨hi, hlonger⟩ | hi := h
  all_goals
    rw [hprog, hi]
    omega

theorem cellsLeft_schedStep_lt {s : State} (hinv : StateInv s) (h : RowsBounded s) (hrun : s.done = false) (d : Instr) :
    cellsLeft (schedStep d s) < cellsLeft s := by
  refine cellsLeft_lt (hinv.i_lt hrun) (h.cur_lt hrun) (schedStep_prog d s) ?_
  obtain ⟨-, hs⟩ | ⟨-, st, -, hs⟩ | ⟨-, -, hs⟩ := schedStep_outcomes d s
  · exact .inl (by simp [hs])
  · exact .inl (by simp [hs])
  · exact .inr (by simp [hs])

theorem cellsLeft_startState_le (anomaly forwarding : Bool) (prog : List Entry) :
    cellsLeft (startState anomaly forwarding prog) ≤ stepBound prog.length := by
  have hsum (n : Nat) : ∑ j ∈ Finset.range n, 5 * (j + 1) ≤ stepBound n := by
    induction n with
    | zero => exact Nat.le_refl 0
    | succ n ih =>
      rw [Finset.sum_range_succ]
      unfold stepBound at ih ⊢
      linarith
  have hi : (startState anomaly forwarding prog).i = 0 := startOrDone_i _
  rw [cellsLeft, hi, startState_prog, Nat.Ico_zero_eq_range]
  exact (Nat.sub_le _ _).trans (hsum _)

/-! ### Every run ends -/

/-- A run reaches `done = 1`, keeping an invariant, within as many steps as a measure that every step lowers. -/
theorem runUntilDone_of_measure {P : State → Prop} {m : State → Nat}
    (hstep : ∀ s, P s → s.done = false → P (schedStep s.desc s) ∧ m (schedStep s.desc s) < m s) {k : Nat} {s : State}
    (hs : P s) (hk : m s ≤ k) : ∃ t, runUntilDone k s = .next t ∧ t.done = true ∧ P t := by
  induction k generalizing s with
  | zero =>
    cases hdone : s.done with
    | true => exact ⟨s, runUntilDone_done 0 s hdone, hdone, hs⟩
    | false =>
      have hlt := (hstep s hs hdone).2
      omega
  | succ k ih =>
    cases hdone : s.done with
    | true => exact ⟨s, runUntilDone_done _ s hdone, hdone, hs⟩
    | false =>
      obtain ⟨hP, hlt⟩ := hstep s hs hdone
      rw [runUntilDone_step k s hdone]
      exact ih hP (by omega)

/-- Every run ends, in a state with the invariant. -/
theorem hostRun_ends (anomaly forwarding : Bool) (prog : List Entry) :
    ∃ s, hostRun anomaly forwarding prog = .next s ∧ s.done = true ∧ StateInv s ∧ s.prog = prog := by
  obtain ⟨s, hrun, hdone, hinv, -, hprog⟩ := runUntilDone_of_measure
    (P := fun s => StateInv s ∧ RowsBounded s ∧ s.prog = prog) (m := cellsLeft)
    (fun s ⟨hinv, hrows, hprog⟩ hdone =>
      ⟨⟨stateInv_schedStep hinv hdone _, rowsBounded_schedStep hinv hrows hdone _, (schedStep_prog _ s).trans hprog⟩,
        cellsLeft_schedStep_lt hinv hrows hdone _⟩)
    ⟨stateInv_startState anomaly forwarding prog, rowsBounded_startOrDone (by simp), startState_prog _ _ _⟩
    (cellsLeft_startState_le anomaly forwarding prog)
  exact ⟨s, hrun, hdone, hinv, hprog⟩

/-- Settles O49: every run ends (`hostRun_ends`), and the invariant says what the rows are then. -/
theorem everyRunEndsWithARowPerEntry : Obligations.EveryRunEndsWithARowPerEntry := by
  intro anomaly forwarding prog
  refine ⟨?_, ?_⟩
  · rintro rfl
    exact ⟨rfl, rfl⟩
  · obtain ⟨s, hrun, hdone, ⟨-, hlen, hiff, -, hcomplete, -⟩, hprog⟩ := hostRun_ends anomaly forwarding prog
    have hi : s.i = prog.length := hprog ▸ hiff.1 hdone
    exact ⟨s, hrun, hdone, hi, hlen.trans hi, fun row hmem => getLast?_of_scanRow (hcomplete row hmem)⟩

end Sys2Proof
end

section
/-! SUPPORT. The rows of the closed form (R138): which cell stands at which cycle of the row with given label cycles, where its
labels are and how many bubbles stand between them. -/

namespace Sys2Proof.Machine

/-! ### Label cycles -/

/-- The label cycle of a stage. -/
def Timing.cycle (t : Timing) : Stage → Cycle
  | .IF => t.IF
  | .ID => t.ID
  | .EXE => t.EXE
  | .MEM => t.MEM
  | .WB => t.WB

/-- The label cycle of the stage before, 0 before IF: how many cells a row has at least while its instruction waits for a
stage. -/
def Timing.cycleBefore (t : Timing) : Stage → Cycle
  | .IF => 0
  | .ID => t.IF
  | .EXE => t.ID
  | .MEM => t.EXE
  | .WB => t.MEM

@[simp] theorem Timing.cycle_IF (t : Timing) : t.cycle .IF = t.IF := rfl
@[simp] theorem Timing.cycle_ID (t : Timing) : t.cycle .ID = t.ID := rfl
@[simp] theorem Timing.cycle_EXE (t : Timing) : t.cycle .EXE = t.EXE := rfl
@[simp] theorem Timing.cycle_MEM (t : Timing) : t.cycle .MEM = t.MEM := rfl
@[simp] theorem Timing.cycle_WB (t : Timing) : t.cycle .WB = t.WB := rfl
@[simp] theorem Timing.cycleBefore_IF (t : Timing) : t.cycleBefore .IF = 0 := rfl
@[simp] theorem Timing.cycleBefore_ID (t : Timing) : t.cycleBefore .ID = t.IF := rfl
@[simp] theorem Timing.cycleBefore_EXE (t : Timing) : t.cycleBefore .EXE = t.ID := rfl
@[simp] theorem Timing.cycleBefore_MEM (t : Timing) : t.cycleBefore .MEM = t.EXE := rfl
@[simp] theorem Timing.cycleBefore_WB (t : Timing) : t.cycleBefore .WB = t.MEM := rfl

theorem Timing.cycleBefore_of_succStage (t : Timing) {st st' : Stage} (h : succStage st = some st') :
    t.cycleBefore st' = t.cycle st := by
  cases st <;> cases h <;> rfl

/-- The labels stand in stage order from cycle 1 on, WB right after MEM. -/
structure Timing.Ordered (t : Timing) : Prop where
  one_le_IF : 1 ≤ t.IF
  IF_lt_ID : t.IF < t.ID
  ID_lt_EXE : t.ID < t.EXE
  EXE_lt_MEM : t.EXE < t.MEM
  WB_eq : t.WB = t.MEM + 1

theorem Timing.Ordered.cycleBefore_lt_cycle {t : Timing} (h : t.Ordered) (st : Stage) :
    t.cycleBefore st < t.cycle st := by
  obtain ⟨h1, h2, h3, h4, h5⟩ := h
  cases st <;> dsimp <;> lia

theorem Timing.Ordered.cycle_lt_cycle_succStage {t : Timing} (h : t.Ordered) {st st' : Stage}
    (hst : succStage st = some st') : t.cycle st < t.cycle st' :=
  t.cycleBefore_of_succStage hst ▸ h.cycleBefore_lt_cycle st'

theorem Timing.Ordered.cycle_le_WB {t : Timing} (h : t.Ordered) (st : Stage) : t.cycle st ≤ t.WB := by
  obtain ⟨h1, h2, h3, h4, h5⟩ := h
  cases st <;> dsimp <;> lia

/-- The stage an instruction with these label cycles waits to enter when its row has `n` cells: the first one whose cycle is
past `n`, if there is one. -/
def Timing.awaited (t : Timing) (n : Nat) : Option Stage :=
  if n < t.IF then some .IF
  else if n < t.ID then some .ID
  else if n < t.EXE then some .EXE
  else if n < t.MEM then some .MEM
  else if n < t.WB then some .WB
  else none

theorem Timing.awaited_eq_none {t : Timing} (h : t.Ordered) {n : Nat} : t.awaited n = none ↔ t.WB ≤ n := by
  obtain ⟨h1, h2, h3, h4, h5⟩ := h
  unfold awaited
  split_ifs <;> simp <;> lia

/-- An instruction waits for a stage from the label of the stage before to the stage's own. -/
theorem Timing.awaited_eq_some {t : Timing} (h : t.Ordered) {n : Nat} {st : Stage} :
    t.awaited n = some st ↔ t.cycleBefore st ≤ n ∧ n < t.cycle st := by
  obtain ⟨h1, h2, h3, h4, h5⟩ := h
  unfold awaited
  cases st <;> split_ifs <;> simp <;> lia

/-! ### Cells -/

/-- A row laid out as a run of one cell, another cell, and the rest: the cells up to the other one. -/
theorem getElem?_replicate_append_cons_of_le {k n : Nat} (x y : Cell) (row : Row) (h : n ≤ k) :
    (List.replicate k x ++ y :: row)[n]? = some (if n = k then y else x) := by
  rw [List.getElem?_append, List.length_replicate]
  split_ifs with h1 h2 h3
  · omega
  · simp [h1]
  · simp [h3]
  · omega

/-- The cells after it. -/
theorem getElem?_replicate_append_cons_of_lt {k n : Nat} (x y : Cell) (row : Row) (h : k < n) :
    (List.replicate k x ++ y :: row)[n]? = row[n - k - 1]? := by
  rw [List.getElem?_append, List.length_replicate, if_neg (by omega), List.getElem?_cons, if_neg (by omega)]

/-- Every cell of the row: a label at its cycle, else the hold cell of the stage the instruction waits for. -/
theorem getElem?_rowOfTiming {t : Timing} (h : t.Ordered) (n : Nat) :
    (rowOfTiming t)[n]? = (t.awaited n).map fun st => if n + 1 = t.cycle st then .stage st else holdCell st := by
  cases hst : t.awaited n with
  | none =>
    rw [Timing.awaited_eq_none h] at hst
    obtain ⟨h1, h2, h3, h4, h5⟩ := h
    unfold rowOfTiming
    iterate 5 rw [getElem?_replicate_append_cons_of_lt _ _ _ (by lia)]
    rfl
  | some st =>
    rw [Timing.awaited_eq_some h] at hst
    obtain ⟨hle, hlt⟩ := hst
    obtain ⟨h1, h2, h3, h4, h5⟩ := h
    unfold rowOfTiming
    cases st
    all_goals
      dsimp at hle hlt ⊢
      repeat rw [getElem?_replicate_append_cons_of_lt _ _ _ (by lia)]
      rw [getElem?_replicate_append_cons_of_le _ _ _ (by lia)]
      congr 2
      lia

/-- Past IF an instruction is held with a bubble (R122). -/
theorem holdCell_of_succStage {st st' : Stage} (h : succStage st = some st') : holdCell st' = .bubble := by
  cases st <;> cases h <;> rfl

theorem length_rowOfTiming {t : Timing} (h : t.Ordered) : (rowOfTiming t).length = t.WB := by
  obtain ⟨h1, h2, h3, h4, h5⟩ := h
  simp [rowOfTiming]
  lia

section RowCells
variable {t : Timing} {n : Nat} {st : Stage}

theorem getElem?_rowOfTiming_of_awaited (h : t.Ordered) (hst : t.awaited n = some st) :
    (rowOfTiming t)[n]? = some (if n + 1 = t.cycle st then .stage st else holdCell st) := by
  rw [getElem?_rowOfTiming h, hst, Option.map_some]

/-- A stage's label stands at its cycle and nowhere else. -/
theorem cellAt_rowOfTiming_eq_stage (h : t.Ordered) {c : Cycle} :
    cellAt (rowOfTiming t) c = some (.stage st) ↔ c = t.cycle st := by
  have hpos := h.cycleBefore_lt_cycle st
  cases c with
  | zero => simp; lia
  | succ n =>
    rw [cellAt_succ, getElem?_rowOfTiming h, Option.map_eq_some_iff]
    constructor
    · rintro ⟨st', -, hcell⟩
      split_ifs at hcell with hn
      · cases hcell; exact hn
      · cases st' <;> cases hcell
    · intro hn
      exact ⟨st, (Timing.awaited_eq_some h).2 ⟨by lia, by lia⟩, by rw [if_pos hn]⟩

/-- The bubbles stand between the labels of IF and MEM. -/
theorem cellAt_rowOfTiming_eq_bubble (h : t.Ordered) {c : Cycle} :
    cellAt (rowOfTiming t) c = some .bubble ↔ t.IF < c ∧ c < t.MEM ∧ c ≠ t.ID ∧ c ≠ t.EXE := by
  cases c with
  | zero => simp
  | succ n =>
    rw [cellAt_succ, getElem?_rowOfTiming h]
    cases hst : t.awaited n with
    | none =>
      have hn := (Timing.awaited_eq_none h).1 hst
      obtain ⟨h1, h2, h3, h4, h5⟩ := h
      simp
      lia
    | some st =>
      obtain ⟨hle, hlt⟩ := (Timing.awaited_eq_some h).1 hst
      obtain ⟨h1, h2, h3, h4, h5⟩ := h
      cases st
      all_goals
        dsimp at hle hlt ⊢
        split_ifs <;> simp [holdCell] <;> lia

/-- The first label of a stage in a row stands where `labelCycle` says. -/
theorem cellAt_of_labelCycle {row : Row} {c : Cycle} (h : labelCycle st row = some c) :
    cellAt row c = some (.stage st) := by
  obtain ⟨k, hk, rfl⟩ := Option.map_eq_some_iff.1 h
  obtain ⟨hlt, hcell, -⟩ := List.findIdx?_eq_some_iff_getElem.1 hk
  rw [cellAt_succ, List.getElem?_eq_getElem hlt]
  simpa using hcell

theorem cellAt_of_prefix {row row' : Row} (h : row <+: row') {c : Cycle} {x : Cell} (hc : cellAt row c = some x) :
    cellAt row' c = some x := by
  obtain ⟨rest, rfl⟩ := h
  cases c with
  | zero => cases hc
  | succ n =>
    rw [cellAt_succ] at hc ⊢
    rw [List.getElem?_append_left (List.getElem?_eq_some_iff.1 hc).1, hc]

/-- A row, or what is written of it so far, has a label at no other cycle than its own. -/
theorem eq_cycle_of_labelCycle (h : t.Ordered) {row : Row} (hrow : row <+: rowOfTiming t) {c : Cycle}
    (hc : labelCycle st row = some c) : c = t.cycle st :=
  (cellAt_rowOfTiming_eq_stage h).1 (cellAt_of_prefix hrow (cellAt_of_labelCycle hc))

theorem labelCycle_rowOfTiming (h : t.Ordered) : labelCycle st (rowOfTiming t) = some (t.cycle st) := by
  cases hc : labelCycle st (rowOfTiming t) with
  | some c => rw [eq_cycle_of_labelCycle h List.prefix_rfl hc]
  | none =>
    have hpos := h.cycleBefore_lt_cycle st
    have hcell := (cellAt_rowOfTiming_eq_stage h).2 (rfl : t.cycle st = t.cycle st)
    obtain ⟨k, hk⟩ : ∃ k, t.cycle st = k + 1 := ⟨t.cycle st - 1, by lia⟩
    rw [hk, cellAt_succ] at hcell
    simp only [labelCycle, Option.map_eq_none_iff, List.findIdx?_eq_none_iff] at hc
    simpa using hc _ (List.mem_of_getElem? hcell)

end RowCells

theorem ifCycle_rowOfTiming {t : Timing} (h : t.Ordered) : ifCycle (rowOfTiming t) = t.IF := by
  rw [ifCycle, labelCycle_rowOfTiming h]
  rfl

/-! ### Bubbles -/

theorem bubbles_rowOfTiming {t : Timing} (h : t.Ordered) : bubbles (rowOfTiming t) + t.IF + 4 = t.WB := by
  obtain ⟨h1, h2, h3, h4, h5⟩ := h
  simp [bubbles, rowOfTiming, List.count_append, List.count_replicate]
  lia

/-- Between the labels of two consecutive stages every cell is a bubble. -/
theorem bubblesBetween_rowOfTiming {t : Timing} (h : t.Ordered) {st st' : Stage} (hst : succStage st = some st') :
    bubblesBetween (rowOfTiming t) st st' = t.cycle st' - t.cycle st - 1 := by
  have hcells : ((rowOfTiming t).take (t.cycle st' - 1)).drop (t.cycle st) =
      List.replicate (t.cycle st' - t.cycle st - 1) .bubble := by
    refine List.ext_getElem? fun k => ?_
    have hlt := h.cycle_lt_cycle_succStage hst
    rw [List.getElem?_drop, List.getElem?_take, List.getElem?_replicate]
    split_ifs with h1 h2 h2
    · have hwait : t.awaited (t.cycle st + k) = some st' :=
        (Timing.awaited_eq_some h).2 (by rw [t.cycleBefore_of_succStage hst]; lia)
      rw [getElem?_rowOfTiming_of_awaited h hwait, if_neg (by lia), holdCell_of_succStage hst]
    · lia
    · lia
    · rfl
  rw [bubblesBetween, labelCycle_rowOfTiming h, labelCycle_rowOfTiming h]
  dsimp only
  rw [hcells, bubbles, List.count_replicate_self]

end Sys2Proof.Machine
end

section
/-! SUPPORT. The recurrences of the closed form (R138), instruction by instruction: the label cycles of a sequence and the
tracker after it, how consecutive rows follow one another, and how late the tracker's entries are. -/

namespace Sys2Proof.Machine

/-! ### One instruction -/

/-- The maximum of R138 is past a cycle exactly when its base or the cycle after some register's entry is. -/
theorem lt_maxReady_iff {c base : Cycle} {A : Tracker} {rs : List RegId} :
    c < maxReady base A rs ↔ c < base ∨ ∃ r ∈ rs, c ≤ trackerGet A r := by
  unfold maxReady
  induction rs generalizing base with
  | nil => simp
  | cons r rs ih => simp [ih, or_assoc]

theorem le_maxReady (base : Cycle) (A : Tracker) (rs : List RegId) : base ≤ maxReady base A rs := by
  by_contra h
  exact lt_irrefl _ (lt_maxReady_iff.2 (.inl (not_le.1 h)))

theorem maxReady_le {c base : Cycle} {A : Tracker} {rs : List RegId} (hbase : base ≤ c)
    (hA : ∀ r ∈ rs, trackerGet A r < c) : maxReady base A rs ≤ c := by
  by_contra h
  obtain h | ⟨r, hr, h⟩ := lt_maxReady_iff.1 (not_le.1 h)
  · exact h.not_ge hbase
  · exact h.not_gt (hA r hr)

/-- With every register of the window ready by then, an instruction enters a stage as soon as the pipeline lets it. -/
theorem maxReady_eq_base {base : Cycle} {A : Tracker} {rs : List RegId} (hA : ∀ r ∈ rs, trackerGet A r < base) :
    maxReady base A rs = base :=
  le_antisymm (maxReady_le le_rfl hA) (le_maxReady base A rs)

section TimingOf
variable (prev : Option Timing) (A : Tracker) (d : Instr)

theorem timingOf_MEM :
    (timingOf prev A d).MEM = maxReady ((timingOf prev A d).EXE + 1) A (need d .MEM) := rfl

theorem timingOf_none_IF : (timingOf none A d).IF = 1 := rfl
theorem timingOf_none_ID : (timingOf none A d).ID = 2 := rfl
theorem timingOf_some_IF (p : Timing) : (timingOf (some p) A d).IF = p.ID := rfl

end TimingOf

/-- How a row follows the one before it, whatever the instruction and the tracker. -/
structure Timing.Follows (p q : Timing) : Prop where
  IF_eq : q.IF = p.ID
  ID_eq : q.ID = p.EXE
  MEM_le_EXE : p.MEM ≤ q.EXE

theorem timingOf_follows (p : Timing) (A : Tracker) (d : Instr) : p.Follows (timingOf (some p) A d) :=
  ⟨rfl, rfl, le_maxReady _ _ _⟩

theorem timingOf_ordered {prev : Option Timing} (h : ∀ p ∈ prev, p.Ordered) (A : Tracker) (d : Instr) :
    (timingOf prev A d).Ordered := by
  have hmem : (timingOf prev A d).EXE + 1 ≤ (timingOf prev A d).MEM := le_maxReady _ _ _
  cases prev with
  | none =>
    have hexe : 3 ≤ (timingOf none A d).EXE := le_maxReady _ _ _
    exact ⟨le_rfl, Nat.lt_succ_self 1, hexe, hmem, rfl⟩
  | some p =>
    obtain ⟨h1, h2, h3, h4, h5⟩ := h p rfl
    have hexe : p.MEM ≤ (timingOf (some p) A d).EXE := le_maxReady _ _ _
    exact ⟨by rw [timingOf_some_IF]; lia, h3, h4.trans_le hexe, hmem, rfl⟩

theorem Timing.Follows.cycle_lt_cycle {p q : Timing} (h : p.Follows q) (hp : p.Ordered) (hq : q.Ordered) (st : Stage) :
    p.cycle st < q.cycle st := by
  obtain ⟨hIF, hID, hEXE⟩ := h
  obtain ⟨p1, p2, p3, p4, p5⟩ := hp
  obtain ⟨q1, q2, q3, q4, q5⟩ := hq
  cases st <;> dsimp <;> lia

/-! ### The availability writes of one instruction -/

/-- The availability write of a stage at its label cycle (R127), on the tracker alone. -/
def stageWrite (anomaly forwarding : Bool) (d : Instr) (t : Timing) (st : Stage) (A : Tracker) : Tracker :=
  setAvail (anomalyWrite d st anomaly) (t.cycle st) (setAvail (destinationWrite d st forwarding) (t.cycle st) A)

/-- The tracker while an instruction that started on `A` waits for a stage. -/
def trackerAwaiting (anomaly forwarding : Bool) (d : Instr) (t : Timing) (A : Tracker) : Stage → Tracker
  | .IF => A
  | .ID => A
  | .EXE => A
  | .MEM => stageWrite anomaly forwarding d t .EXE A
  | .WB => stageWrite anomaly forwarding d t .MEM (stageWrite anomaly forwarding d t .EXE A)

section Writes
variable {anomaly forwarding : Bool} {d : Instr} {t : Timing} {A : Tracker} {st st' : Stage}

/-- The writes of the scheduler, stage by stage, are the two of the closed form: an instruction makes at most one. -/
theorem stageWrite_WB_trackerAwaiting :
    stageWrite anomaly forwarding d t .WB (trackerAwaiting anomaly forwarding d t A .WB) =
      trackerAfter anomaly forwarding d t A := by
  cases d <;> cases forwarding <;> cases anomaly <;> rfl

/-- IF and ID write nothing. -/
theorem stageWrite_of_before_EXE (h : st = .IF ∨ st = .ID) : stageWrite anomaly forwarding d t st A = A := by
  obtain rfl | rfl := h <;> cases d <;> cases forwarding <;> cases anomaly <;> rfl

/-- Entering a stage writes what the instruction finds written while it waits for the next one. -/
theorem trackerAwaiting_succStage (h : succStage st = some st') :
    stageWrite anomaly forwarding d t st (trackerAwaiting anomaly forwarding d t A st) =
      trackerAwaiting anomaly forwarding d t A st' := by
  cases st with
  | IF => cases h; exact stageWrite_of_before_EXE (.inl rfl)
  | ID => cases h; exact stageWrite_of_before_EXE (.inr rfl)
  | EXE => cases h; rfl
  | MEM => cases h; rfl
  | WB => cases h

/-- An instruction tests its registers on the tracker it started on: it writes nothing before its last check window (R120,
R127). -/
theorem trackerAwaiting_of_mem_need {r : RegId} (h : r ∈ need d st) :
    trackerAwaiting anomaly forwarding d t A st = A := by
  obtain rfl | rfl := Sys2Proof.stage_of_mem_need h
  · rfl
  · cases d <;> cases h <;> cases forwarding <;> cases anomaly <;> rfl

/-- Without forwarding nothing is recorded at EXE (R126). -/
theorem stageWrite_EXE_of_not_forwarding : stageWrite anomaly false d t .EXE A = A := by
  cases d <;> cases anomaly <;> rfl

/-- With forwarding nothing is recorded at WB (R129). -/
theorem stageWrite_WB_of_forwarding : stageWrite anomaly true d t .WB A = A := by
  cases d <;> cases anomaly <;> rfl

theorem trackerGet_stageWrite_le (r : RegId) :
    trackerGet (stageWrite anomaly forwarding d t st A) r ≤ max (trackerGet A r) (t.cycle st) := by
  rw [stageWrite, trackerGet_setAvail, trackerGet_setAvail]
  split_ifs <;> simp

/-- A write moves no entry back that is not past its cycle. -/
theorem le_trackerGet_stageWrite {r : RegId} (h : trackerGet A r ≤ t.cycle st) :
    trackerGet A r ≤ trackerGet (stageWrite anomaly forwarding d t st A) r := by
  rw [stageWrite, trackerGet_setAvail, trackerGet_setAvail]
  split_ifs <;> simp [h]

/-- The last cycle at which an instruction can record a register: MEM with forwarding, WB without. -/
def Timing.recorded (forwarding : Bool) (t : Timing) : Cycle := if forwarding then t.MEM else t.WB

theorem Timing.Ordered.MEM_le_recorded (h : t.Ordered) : t.MEM ≤ t.recorded forwarding := by
  have := h.WB_eq
  cases forwarding <;> dsimp [recorded] <;> lia

theorem trackerGet_trackerAfter_le (h : t.Ordered) (r : RegId) :
    trackerGet (trackerAfter anomaly forwarding d t A) r ≤ max (trackerGet A r) (t.recorded forwarding) := by
  have hEXE := h.EXE_lt_MEM
  have hMEM := h.MEM_le_recorded (forwarding := forwarding)
  have h3 := trackerGet_stageWrite_le (anomaly := anomaly) (forwarding := forwarding) (d := d) (t := t) (st := .EXE)
    (A := A) r
  have h4 := trackerGet_stageWrite_le (anomaly := anomaly) (forwarding := forwarding) (d := d) (t := t) (st := .MEM)
    (A := stageWrite anomaly forwarding d t .EXE A) r
  rw [← stageWrite_WB_trackerAwaiting]
  dsimp only [trackerAwaiting, Timing.cycle] at h3 h4 ⊢
  cases forwarding with
  | true => rw [stageWrite_WB_of_forwarding]; lia
  | false =>
    have h5 := trackerGet_stageWrite_le (anomaly := anomaly) (forwarding := false) (d := d) (t := t) (st := .WB)
      (A := stageWrite anomaly false d t .MEM (stageWrite anomaly false d t .EXE A)) r
    dsimp only [Timing.recorded, Timing.cycle] at h5 hMEM ⊢
    lia

end Writes

/-! ### The bounds of one instruction by the one before it -/

section Bounds
variable {prev : Option Timing} {A : Tracker} {d : Instr} {forwarding : Bool}

/-- The last cycle at which an instruction, if there is one, can have recorded a register. -/
def lastRecorded (forwarding : Bool) (prev : Option Timing) : Cycle := (prev.map (Timing.recorded forwarding)).getD 0

theorem lastRecorded_le_MEM (h : ∀ p ∈ prev, p.Ordered) : lastRecorded forwarding prev ≤ (timingOf prev A d).MEM := by
  cases prev with
  | none => exact Nat.zero_le _
  | some p =>
    have hp := (h p rfl).WB_eq
    have hq := (timingOf_ordered h A d).EXE_lt_MEM
    have hpq := (timingOf_follows p A d).MEM_le_EXE
    cases forwarding <;> simp [lastRecorded, Timing.recorded] <;> lia

theorem lastRecorded_le_EXE_of_forwarding : lastRecorded true prev ≤ (timingOf prev A d).EXE := by
  cases prev with
  | none => exact Nat.zero_le _
  | some p => exact (timingOf_follows p A d).MEM_le_EXE

/-- With no entry of the tracker past a cycle that the row before has not passed either, a row ends at most three cycles
later. -/
theorem timingOf_WB_le {c : Cycle} (hc : 2 ≤ c) (hprev : ∀ p ∈ prev, p.MEM ≤ c) (hA : ∀ r, trackerGet A r ≤ c) :
    (timingOf prev A d).WB ≤ c + 3 := by
  have hEXE : (timingOf prev A d).EXE ≤ c + 1 := by
    refine maxReady_le ?_ fun r _ => Nat.lt_succ_of_le (hA r)
    cases prev with
    | none => exact Nat.succ_le_succ hc
    | some p => exact (hprev p rfl).trans (Nat.le_succ c)
  have hMEM : (timingOf prev A d).MEM ≤ c + 2 :=
    maxReady_le (Nat.succ_le_succ hEXE) fun r _ => Nat.lt_succ_of_le ((hA r).trans (Nat.le_succ c))
  exact Nat.succ_le_succ hMEM

/-- Where forwarding records every register by MEM, no instruction waits between EXE and MEM. -/
theorem timingOf_MEM_of_forwarding (hA : ∀ r, trackerGet A r ≤ lastRecorded true prev) :
    (timingOf prev A d).MEM = (timingOf prev A d).EXE + 1 :=
  maxReady_eq_base fun r _ => Nat.lt_succ_of_le ((hA r).trans lastRecorded_le_EXE_of_forwarding)

/-- Where an instruction writes, no entry is past its label cycle: the writes before it are from the MEM cycle of the row before
at the latest with forwarding, from its WB cycle without, where nothing is written before MEM. -/
theorem trackerAwaiting_le_stageWrite {anomaly : Bool} (hprev : ∀ p ∈ prev, p.Ordered)
    (hA : ∀ r, trackerGet A r ≤ lastRecorded forwarding prev) (st : Stage) (r : RegId) :
    trackerGet (trackerAwaiting anomaly forwarding d (timingOf prev A d) A st) r ≤
      trackerGet (stageWrite anomaly forwarding d (timingOf prev A d) st
        (trackerAwaiting anomaly forwarding d (timingOf prev A d) A st)) r := by
  have hord := timingOf_ordered hprev A d
  have hMEM : trackerGet A r ≤ (timingOf prev A d).MEM := (hA r).trans (lastRecorded_le_MEM hprev)
  have hEXE : trackerGet (trackerAwaiting anomaly forwarding d (timingOf prev A d) A .MEM) r ≤ (timingOf prev A d).MEM :=
    (trackerGet_stageWrite_le r).trans (max_le hMEM hord.EXE_lt_MEM.le)
  cases st with
  | IF => rw [stageWrite_of_before_EXE (.inl rfl)]
  | ID => rw [stageWrite_of_before_EXE (.inr rfl)]
  | EXE =>
    cases forwarding with
    | false => rw [stageWrite_EXE_of_not_forwarding]
    | true => exact le_trackerGet_stageWrite ((hA r).trans lastRecorded_le_EXE_of_forwarding)
  | MEM => exact le_trackerGet_stageWrite hEXE
  | WB =>
    refine le_trackerGet_stageWrite ((trackerGet_stageWrite_le r).trans (max_le ?_ ?_))
    · exact hEXE.trans (hord.cycle_le_WB .MEM)
    · exact hord.cycle_le_WB .MEM

end Bounds

/-! ### A sequence of instructions -/

section Sequence
variable (anomaly forwarding : Bool)

/-- The label cycles of the rows of a sequence. -/
abbrev timings (ds : List Instr) : List Timing := (closedFormFrom anomaly forwarding none trackerReset ds).1

/-- The tracker after a sequence. -/
abbrev trackerOver (ds : List Instr) : Tracker := (closedFormFrom anomaly forwarding none trackerReset ds).2

/-- The label cycles of the instruction that follows a sequence. -/
def nextTiming (ds : List Instr) (d : Instr) : Timing :=
  timingOf (timings anomaly forwarding ds).getLast? (trackerOver anomaly forwarding ds) d

/-- The recurrences, from the sequence's end: one more instruction adds its row and its writes. -/
theorem closedFormFrom_concat (prev : Option Timing) (A : Tracker) (ds : List Instr) (d : Instr) :
    closedFormFrom anomaly forwarding prev A (ds ++ [d]) =
      ((closedFormFrom anomaly forwarding prev A ds).1 ++
          [timingOf ((closedFormFrom anomaly forwarding prev A ds).1.getLast?.or prev)
            (closedFormFrom anomaly forwarding prev A ds).2 d],
        trackerAfter anomaly forwarding d
          (timingOf ((closedFormFrom anomaly forwarding prev A ds).1.getLast?.or prev)
            (closedFormFrom anomaly forwarding prev A ds).2 d)
          (closedFormFrom anomaly forwarding prev A ds).2) := by
  induction ds generalizing prev A with
  | nil => simp [closedFormFrom]
  | cons d' ds ih => simp [closedFormFrom, ih, List.getLast?_cons]

variable {anomaly forwarding : Bool} {ds : List Instr} {d : Instr}

@[simp] theorem timings_nil : timings anomaly forwarding [] = [] := rfl
@[simp] theorem trackerOver_nil : trackerOver anomaly forwarding [] = trackerReset := rfl

theorem timings_concat :
    timings anomaly forwarding (ds ++ [d]) = timings anomaly forwarding ds ++ [nextTiming anomaly forwarding ds d] := by
  simp [timings, closedFormFrom_concat, nextTiming]

theorem trackerOver_concat :
    trackerOver anomaly forwarding (ds ++ [d]) =
      trackerAfter anomaly forwarding d (nextTiming anomaly forwarding ds d) (trackerOver anomaly forwarding ds) := by
  simp [timings, trackerOver, closedFormFrom_concat, nextTiming]

theorem timings_take_succ {j : Nat} (h : ds[j]? = some d) :
    timings anomaly forwarding (ds.take (j + 1)) =
      timings anomaly forwarding (ds.take j) ++ [nextTiming anomaly forwarding (ds.take j) d] := by
  rw [List.take_add_one, h, Option.toList_some, timings_concat]

@[simp] theorem length_timings : (timings anomaly forwarding ds).length = ds.length := by
  induction ds using List.reverseRecOn with
  | nil => rfl
  | append_singleton ds d ih => simp [timings_concat, ih]

/-- Row `j` is the one that follows the first `j` instructions. -/
theorem getElem?_timings (j : Nat) :
    (timings anomaly forwarding ds)[j]? = (ds[j]?).map (nextTiming anomaly forwarding (ds.take j)) := by
  induction ds using List.reverseRecOn with
  | nil => rfl
  | append_singleton ds d ih =>
    rw [timings_concat]
    obtain hlt | rfl | hgt := Nat.lt_trichotomy j ds.length
    · rw [List.getElem?_append_left (by simpa using hlt), List.getElem?_append_left hlt, ih,
        List.take_append_of_le_length hlt.le]
    · simp
    · simp [hgt]

theorem getElem?_timings_eq_some {j : Nat} {t : Timing} :
    (timings anomaly forwarding ds)[j]? = some t ↔
      ∃ d, ds[j]? = some d ∧ nextTiming anomaly forwarding (ds.take j) d = t := by
  rw [getElem?_timings, Option.map_eq_some_iff]

/-- The row before the one at `j + 1` is the one at `j`. -/
theorem getLast?_timings_take {j : Nat} {t : Timing} (h : (timings anomaly forwarding ds)[j]? = some t) :
    (timings anomaly forwarding (ds.take (j + 1))).getLast? = some t := by
  obtain ⟨d, hd, rfl⟩ := getElem?_timings_eq_some.1 h
  rw [timings_take_succ hd, List.getLast?_concat]

/-- Every row of a sequence has its labels in order. -/
theorem ordered_of_mem_timings {t : Timing} (h : t ∈ timings anomaly forwarding ds) : t.Ordered := by
  induction ds using List.reverseRecOn generalizing t with
  | nil => cases h
  | append_singleton ds d ih =>
    rw [timings_concat, List.mem_append, List.mem_singleton] at h
    obtain h | rfl := h
    · exact ih h
    · exact timingOf_ordered (fun p hp => ih (List.mem_of_getLast? hp)) _ _

theorem ordered_of_getLast?_timings {p : Timing} (h : p ∈ (timings anomaly forwarding ds).getLast?) : p.Ordered :=
  ordered_of_mem_timings (List.mem_of_getLast? h)

theorem nextTiming_ordered : (nextTiming anomaly forwarding ds d).Ordered :=
  timingOf_ordered (fun _ => ordered_of_getLast?_timings) _ _

/-- Consecutive rows of a sequence follow one another. -/
theorem follows_of_timings {j : Nat} {p q : Timing} (hp : (timings anomaly forwarding ds)[j]? = some p)
    (hq : (timings anomaly forwarding ds)[j + 1]? = some q) : p.Follows q := by
  obtain ⟨d, -, rfl⟩ := getElem?_timings_eq_some.1 hq
  rw [nextTiming, getLast?_timings_take hp]
  exact timingOf_follows _ _ _

/-- Every label of a later row stands at a later cycle. -/
theorem cycle_lt_cycle_of_timings {j k : Nat} (hjk : j < k) {p q : Timing}
    (hp : (timings anomaly forwarding ds)[j]? = some p) (hq : (timings anomaly forwarding ds)[k]? = some q) (st : Stage) :
    p.cycle st < q.cycle st := by
  induction k, hjk using Nat.le_induction generalizing q with
  | base =>
    exact (follows_of_timings hp hq).cycle_lt_cycle (ordered_of_mem_timings (List.mem_of_getElem? hp))
      (ordered_of_mem_timings (List.mem_of_getElem? hq)) st
  | succ k _ ih =>
    have hk := (List.getElem?_eq_some_iff.1 hq).1
    obtain ⟨m, hm⟩ : ∃ m, (timings anomaly forwarding ds)[k]? = some m := ⟨_, List.getElem?_eq_getElem (by lia)⟩
    exact (ih hm).trans ((follows_of_timings hm hq).cycle_lt_cycle (ordered_of_mem_timings (List.mem_of_getElem? hm))
      (ordered_of_mem_timings (List.mem_of_getElem? hq)) st)

/-- No entry of the tracker is past the last cycle at which the last instruction can have recorded a register. -/
theorem trackerOver_le (r : RegId) :
    trackerGet (trackerOver anomaly forwarding ds) r ≤ lastRecorded forwarding (timings anomaly forwarding ds).getLast? := by
  induction ds using List.reverseRecOn with
  | nil => simp
  | append_singleton ds d ih =>
    have hord : (nextTiming anomaly forwarding ds d).Ordered := nextTiming_ordered
    rw [trackerOver_concat, timings_concat, List.getLast?_concat]
    refine (trackerGet_trackerAfter_le hord r).trans (max_le (ih.trans ?_) le_rfl)
    exact (lastRecorded_le_MEM fun _ => ordered_of_getLast?_timings).trans hord.MEM_le_recorded

theorem lastRecorded_le_WB {p : Timing} (h : p.Ordered) : lastRecorded forwarding (some p) ≤ p.WB := by
  have := h.WB_eq
  cases forwarding <;> dsimp [lastRecorded, Timing.recorded] <;> lia

/-- The last row of a sequence ends within three cycles for each instruction, and two more (R142). -/
theorem WB_getLast?_timings_le {t : Timing} (h : (timings anomaly forwarding ds).getLast? = some t) :
    t.WB ≤ 3 * ds.length + 2 := by
  induction ds using List.reverseRecOn generalizing t with
  | nil => cases h
  | append_singleton ds d ih =>
    rw [timings_concat, List.getLast?_concat] at h
    cases h
    have hprev : ∀ p ∈ (timings anomaly forwarding ds).getLast?, p.MEM ≤ 3 * ds.length + 2 := fun p hp =>
      ((ordered_of_getLast?_timings hp).cycle_le_WB .MEM).trans (ih hp)
    have hA (r : RegId) : trackerGet (trackerOver anomaly forwarding ds) r ≤ 3 * ds.length + 2 := by
      refine (trackerOver_le r).trans ?_
      cases hlast : (timings anomaly forwarding ds).getLast? with
      | none => exact Nat.zero_le _
      | some p => exact (lastRecorded_le_WB (ordered_of_getLast?_timings hlast)).trans (ih hlast)
    have hWB : (nextTiming anomaly forwarding ds d).WB ≤ 3 * ds.length + 2 + 3 :=
      timingOf_WB_le (Nat.le_add_left 2 _) hprev hA
    simpa [Nat.mul_add, Nat.add_right_comm] using hWB

theorem WB_timings_le {j : Nat} {t : Timing} (h : (timings anomaly forwarding ds)[j]? = some t) : t.WB ≤ 3 * j + 5 := by
  have hlt : j < ds.length := by simpa using (List.getElem?_eq_some_iff.1 h).1
  have hWB := WB_getLast?_timings_le (getLast?_timings_take h)
  rw [List.length_take] at hWB
  lia

/-- Consecutive rows end within three cycles of one another (R142). -/
theorem WB_le_WB_add_three {j : Nat} {p q : Timing} (hp : (timings anomaly forwarding ds)[j]? = some p)
    (hq : (timings anomaly forwarding ds)[j + 1]? = some q) : q.WB ≤ p.WB + 3 := by
  have hord := ordered_of_mem_timings (List.mem_of_getElem? hp)
  have hlast := getLast?_timings_take hp
  obtain ⟨d, -, rfl⟩ := getElem?_timings_eq_some.1 hq
  refine timingOf_WB_le ?_ (fun p' hp' => ?_) fun r => (trackerOver_le r).trans ?_
  · obtain ⟨h1, h2, h3, h4, h5⟩ := hord
    lia
  · rw [hlast] at hp'
    cases hp'
    exact hord.cycle_le_WB .MEM
  · rw [hlast]
    exact lastRecorded_le_WB hord

/-- Only an instruction with a check window before MEM waits there: a STORE (R120). -/
theorem eq_store_of_need_MEM (h : need d .MEM ≠ []) : d.format = .STORE := by
  cases d with
  | store rs1 rs2 => rfl
  | _ => exact absurd rfl h

end Sequence

end Sys2Proof.Machine
end

section
/-! SUPPORT. The scheduler's states, related to the closed form (R138): the completed rows are those of the instructions before
the index, and the instruction in progress is on time. Every step keeps this; then the statements that read it off. -/

namespace Sys2Proof

open Sys2Proof.Machine

/-! ### A state that agrees with the closed form -/

/-- The instructions before the index. -/
def past (s : State) : List Instr := (s.prog.map decode).take s.i

/-- The label cycles of the completed rows, by the closed form. -/
def pastTimings (s : State) : List Timing := timings s.storeDataAvailAnomaly s.forwarding (past s)

/-- The tracker when the instruction at the index was started, by the closed form. -/
def pastTracker (s : State) : Tracker := trackerOver s.storeDataAvailAnomaly s.forwarding (past s)

/-- The label cycles of the instruction in progress, by the closed form. -/
def timingNow (s : State) : Timing := nextTiming s.storeDataAvailAnomaly s.forwarding (past s) s.desc

/-- The instruction in progress is where the closed form says it is when its row has that many cells. -/
structure OnTime (s : State) : Prop where
  cur_prefix : s.cur <+: rowOfTiming (timingNow s)
  padded : ∀ p ∈ (pastTimings s).getLast?, p.IF ≤ s.cur.length
  awaited : (timingNow s).awaited s.cur.length = some s.nxt
  tracker : s.A =
    trackerAwaiting s.storeDataAvailAnomaly s.forwarding s.desc (timingNow s) (pastTracker s) s.nxt

/-- A state agrees with the closed form: its completed rows and, once the run is over, its tracker are those of the recurrences,
and until then the instruction in progress is on time. -/
structure Agrees (s : State) : Prop where
  inv : StateInv s
  rows : s.rows = (pastTimings s).map rowOfTiming
  tracker : s.done = true → s.A = pastTracker s
  onTime : s.done = false → OnTime s

theorem timingNow_ordered (s : State) : (timingNow s).Ordered := nextTiming_ordered

theorem ordered_of_mem_pastTimings {s : State} {t : Timing} (h : t ∈ pastTimings s) : t.Ordered :=
  ordered_of_mem_timings h

theorem ordered_of_getLast?_pastTimings {s : State} {p : Timing} (h : p ∈ (pastTimings s).getLast?) : p.Ordered :=
  ordered_of_getLast?_timings h

theorem timingNow_eq (s : State) : timingNow s = timingOf (pastTimings s).getLast? (pastTracker s) s.desc := rfl

/-- The row before the one in progress. -/
theorem prevRow_eq {s : State} (hlen : s.rows.length = s.i) (hrows : s.rows = (pastTimings s).map rowOfTiming) :
    prevRow s = (pastTimings s).getLast?.map rowOfTiming := by
  obtain h | h := Nat.eq_zero_or_pos s.i
  · have hnil : s.rows = [] := List.length_eq_zero_iff.1 (hlen.trans h)
    have hpast : pastTimings s = [] := by simpa [hnil] using hrows
    rw [prevRow_of_zero s h, hpast]
    rfl
  · rw [prevRow_of_pos s h, ← hlen, ← List.getLast?_eq_getElem?, hrows, List.getLast?_map]

/-! ### When the instruction in progress is held -/

/-- The first cycle at which an instruction with label cycles `t` can enter a stage as far as the pipeline goes: the base of
each maximum in R138. -/
def clearCycle (prev : Option Timing) (t : Timing) : Stage → Cycle
  | .IF => (prev.map Timing.ID).getD 1
  | .ID => (prev.map Timing.EXE).getD 2
  | .EXE => (prev.map Timing.MEM).getD 3
  | .MEM => t.EXE + 1
  | .WB => t.MEM + 1

/-- The recurrences, one equation for all stages. -/
theorem cycle_timingOf (prev : Option Timing) (A : Tracker) (d : Instr) (st : Stage) :
    (timingOf prev A d).cycle st = maxReady (clearCycle prev (timingOf prev A d) st) A (need d st) := by
  have no_window (h : ¬ (st = .EXE ∨ st = .MEM)) : need d st = [] :=
    List.eq_nil_iff_forall_not_mem.2 fun r hr => h (stage_of_mem_need hr)
  cases st with
  | IF => rw [no_window (by decide)]; cases prev <;> rfl
  | ID => rw [no_window (by decide)]; cases prev <;> rfl
  | EXE => cases prev <;> rfl
  | MEM => rfl
  | WB => rw [no_window (by decide)]; rfl

/-- While an instruction waits for a stage, the row before it has a bubble at its next cycle exactly as long as the pipeline is
not clear. -/
theorem bubble_iff_lt_clearCycle {prev : Option Timing} {A : Tracker} {d : Instr} {n : Nat} {st : Stage}
    (hprev : ∀ p ∈ prev, p.Ordered) (hpadded : ∀ p ∈ prev, p.IF ≤ n) (hle : (timingOf prev A d).cycleBefore st ≤ n)
    (hlt : n < (timingOf prev A d).cycle st) :
    (∃ p, prev = some p ∧ p.IF < n + 1 ∧ n + 1 < p.MEM ∧ n + 1 ≠ p.ID ∧ n + 1 ≠ p.EXE) ↔
      n + 1 < clearCycle prev (timingOf prev A d) st := by
  obtain ⟨h1, h2, h3, h4, h5⟩ := timingOf_ordered hprev A d
  cases prev with
  | none =>
    have hID := timingOf_none_ID A d
    cases st <;> simp [clearCycle] at hle hlt ⊢ <;> lia
  | some p =>
    obtain ⟨p1, p2, p3, p4, p5⟩ := hprev p rfl
    obtain ⟨hIF, hID, hEXE⟩ := timingOf_follows p A d
    have hpad := hpadded p rfl
    cases st <;> simp [clearCycle] at hle hlt ⊢ <;> lia

section Held
variable {s : State} (h : Agrees s)
include h

/-- What holds an instruction by propagation, in the closed form's terms. -/
theorem prevHolds_iff_of_agrees :
    PrevHolds s ↔ ∃ p, (pastTimings s).getLast? = some p ∧
      p.IF < s.cur.length + 1 ∧ s.cur.length + 1 < p.MEM ∧ s.cur.length + 1 ≠ p.ID ∧ s.cur.length + 1 ≠ p.EXE := by
  obtain ⟨-, hlen, -⟩ := h.inv
  rw [prevHolds_iff, prevBubble, prevRow_eq hlen h.rows, beq_iff_eq]
  cases hlast : (pastTimings s).getLast? with
  | none => simp
  | some p =>
    have hp := ordered_of_getLast?_pastTimings hlast
    simpa using cellAt_rowOfTiming_eq_bubble (c := s.cur.length + 1) hp

variable (hrun : s.done = false)
include hrun

/-- The registers of the window are ready when the closed form says. -/
theorem window_iff_of_agrees :
    (∃ r ∈ need s.desc s.nxt, ready s.A r (s.cur.length + 1) = false) ↔
      ∃ r ∈ need s.desc s.nxt, s.cur.length + 1 ≤ trackerGet (pastTracker s) r := by
  refine exists_congr fun r => and_congr_right fun hr => ?_
  rw [(h.onTime hrun).tracker, trackerAwaiting_of_mem_need hr]
  simp [ready]

/-- The scheduler holds an instruction exactly until the cycle before the closed form's. -/
theorem held_iff_of_agrees : Held s.desc s ↔ s.cur.length + 1 < (timingNow s).cycle s.nxt := by
  have hot := h.onTime hrun
  obtain ⟨hle, hlt⟩ := (Timing.awaited_eq_some (timingNow_ordered s)).1 hot.awaited
  rw [Held, prevHolds_iff_of_agrees h, window_iff_of_agrees h hrun,
    bubble_iff_lt_clearCycle (fun _ => ordered_of_getLast?_pastTimings) hot.padded hle hlt, ← lt_maxReady_iff,
    timingNow_eq, cycle_timingOf]
  rfl

/-- An instruction that is not held enters its stage at the closed form's cycle. -/
theorem eq_cycle_of_not_held (hfree : ¬ Held s.desc s) : s.cur.length + 1 = (timingNow s).cycle s.nxt := by
  have hlt := ((Timing.awaited_eq_some (timingNow_ordered s)).1 (h.onTime hrun).awaited).2
  rw [held_iff_of_agrees h hrun] at hfree
  lia

end Held

/-! ### One step -/

/-- The rest of a row's cells, one at a time. -/
theorem concat_prefix_of_getElem? {row row' : Row} (h : row' <+: row) {x : Cell} (hx : row[row'.length]? = some x) :
    row' ++ [x] <+: row := by
  obtain ⟨hlt, hcell⟩ := List.getElem?_eq_some_iff.1 hx
  simpa [hcell] using List.concat_get_prefix h hlt

theorem OnTime.hold {s : State} (h : OnTime s) (hlt : s.cur.length + 1 < (timingNow s).cycle s.nxt) :
    OnTime (appendCell (holdCell s.nxt) s) := by
  have hord := timingNow_ordered s
  obtain ⟨hle, -⟩ := (Timing.awaited_eq_some hord).1 h.awaited
  have hcell := getElem?_rowOfTiming_of_awaited hord h.awaited
  rw [if_neg hlt.ne] at hcell
  have hlen : (appendCell (holdCell s.nxt) s).cur.length = s.cur.length + 1 := by simp
  exact {
    cur_prefix := concat_prefix_of_getElem? h.cur_prefix hcell
    padded := fun p hp => by rw [hlen]; exact (h.padded p hp).trans (Nat.le_succ _)
    awaited := by rw [hlen]; exact (Timing.awaited_eq_some hord).2 ⟨hle.trans (Nat.le_succ _), hlt⟩
    tracker := h.tracker }

section EnterStage
variable {s : State} (h : OnTime s) (hnow : s.cur.length + 1 = (timingNow s).cycle s.nxt)
include h hnow

theorem labelWritten_cur_prefix : (labelWritten s.desc s).cur <+: rowOfTiming (timingNow s) := by
  have hcell := getElem?_rowOfTiming_of_awaited (timingNow_ordered s) h.awaited
  rw [if_pos hnow] at hcell
  exact concat_prefix_of_getElem? h.cur_prefix hcell

theorem labelWritten_A : (labelWritten s.desc s).A =
    stageWrite s.storeDataAvailAnomaly s.forwarding s.desc (timingNow s) s.nxt
      (trackerAwaiting s.storeDataAvailAnomaly s.forwarding s.desc (timingNow s) (pastTracker s) s.nxt) := by
  rw [stageWrite, ← hnow, ← h.tracker]
  rfl

theorem OnTime.move {st : Stage} (hst : succStage s.nxt = some st) :
    OnTime { labelWritten s.desc s with nxt := st } := by
  have hord := timingNow_ordered s
  have hlen : (labelWritten s.desc s).cur.length = s.cur.length + 1 := by simp
  exact {
    cur_prefix := labelWritten_cur_prefix h hnow
    padded := fun p hp => hlen ▸ (h.padded p hp).trans (Nat.le_succ _)
    awaited := by
      refine (Timing.awaited_eq_some hord).2 ⟨?_, ?_⟩
      · exact ((timingNow s).cycleBefore_of_succStage hst).trans_le (hlen.trans hnow).ge
      · exact (hlen.trans hnow).trans_lt (hord.cycle_lt_cycle_succStage hst)
    tracker := (labelWritten_A h hnow).trans (trackerAwaiting_succStage hst) }

/-- The row is complete with its WB cell. -/
theorem labelWritten_cur_of_WB (hWB : s.nxt = .WB) : (labelWritten s.desc s).cur = rowOfTiming (timingNow s) := by
  refine (labelWritten_cur_prefix h hnow).eq_of_length ?_
  rw [length_rowOfTiming (timingNow_ordered s), ← Timing.cycle_WB, ← hWB, ← hnow]
  simp

/-- The tracker is complete with the write of WB. -/
theorem labelWritten_A_of_WB (hWB : s.nxt = .WB) : (labelWritten s.desc s).A =
    trackerAfter s.storeDataAvailAnomaly s.forwarding s.desc (timingNow s) (pastTracker s) := by
  rw [labelWritten_A h hnow, hWB, stageWrite_WB_trackerAwaiting]

end EnterStage

theorem padding_eq {s : State} (hlen : s.rows.length = s.i) (hrows : s.rows = (pastTimings s).map rowOfTiming) :
    padding s = List.replicate (((pastTimings s).getLast?.map Timing.IF).getD 0) .blank := by
  rw [padding, prevRow_eq hlen hrows]
  cases hlast : (pastTimings s).getLast? with
  | none => rfl
  | some p =>
    have hp := ordered_of_getLast?_pastTimings hlast
    simp [ifCycle_rowOfTiming hp]

/-- An instruction is started on time, before its IF label. -/
theorem onTime_startInstr {s : State} (hlen : s.rows.length = s.i) (hrows : s.rows = (pastTimings s).map rowOfTiming)
    (hA : s.A = pastTracker s) (e : Entry) : OnTime (startInstr e s) := by
  have hord := timingNow_ordered (startInstr e s)
  have hpad : (startInstr e s).cur = _ := padding_eq hlen hrows
  have hIF : ((pastTimings s).getLast?.map Timing.IF).getD 0 < (timingNow (startInstr e s)).IF := by
    rw [timingNow_eq]
    change _ < (timingOf (pastTimings s).getLast? _ _).IF
    cases hlast : (pastTimings s).getLast? with
    | none => exact Nat.zero_lt_one
    | some p => exact (ordered_of_getLast?_pastTimings hlast).IF_lt_ID
  exact {
    cur_prefix := by
      rw [hpad, rowOfTiming]
      refine List.IsPrefix.trans ?_ (List.prefix_append _ _)
      exact List.prefix_replicate_iff.2 ⟨by rw [List.length_replicate]; lia, by rw [List.length_replicate]⟩
    padded := fun p hp => by
      change (pastTimings s).getLast? = some p at hp
      rw [hpad, hp]
      simp
    awaited := by
      rw [hpad, List.length_replicate]
      exact (Timing.awaited_eq_some hord).2 ⟨Nat.zero_le _, hIF⟩
    tracker := hA }

/-- Starting the next instruction, or ending the run, keeps agreement. -/
theorem agrees_startOrDone {s : State} (hinv : StateInv (startOrDone s)) (hlen : s.rows.length = s.i)
    (hrows : s.rows = (pastTimings s).map rowOfTiming) (hA : s.A = pastTracker s) : Agrees (startOrDone s) := by
  cases he : s.prog[s.i]? with
  | none =>
    rw [startOrDone_none s he] at hinv ⊢
    exact ⟨hinv, hrows, fun _ => hA, by simp⟩
  | some e =>
    rw [startOrDone_some s e he] at hinv ⊢
    exact ⟨hinv, hrows, fun _ => hA, fun _ => onTime_startInstr hlen hrows hA e⟩

theorem past_retire {s : State} (h : (s.prog[s.i]?).map decode = some s.desc) : past (retire s) = past s ++ [s.desc] := by
  rw [past, retire_prog, retire_i, List.take_add_one, List.getElem?_map, h]
  rfl

theorem agrees_schedStep {s : State} (h : Agrees s) (hrun : s.done = false) : Agrees (schedStep s.desc s) := by
  have hinv := stateInv_schedStep h.inv hrun s.desc
  have hot := h.onTime hrun
  obtain ⟨hheld, hs⟩ | ⟨hfree, st, hst, hs⟩ | ⟨hfree, hWB, hs⟩ := schedStep_outcomes s.desc s
  · rw [hs] at hinv ⊢
    refine ⟨hinv, h.rows, fun hdone => ?_, fun _ => hot.hold ((held_iff_of_agrees h hrun).1 hheld)⟩
    rw [appendCell_done, hrun] at hdone
    cases hdone
  · have hnow := eq_cycle_of_not_held h hrun hfree
    rw [hs] at hinv ⊢
    refine ⟨hinv, h.rows, fun hdone => ?_, fun _ => hot.move hnow hst⟩
    simp [hrun] at hdone
  · have hnow := eq_cycle_of_not_held h hrun hfree
    obtain ⟨-, hlen, -, hdec, -⟩ := h.inv
    have hpast : past (retire (labelWritten s.desc s)) = past s ++ [s.desc] := past_retire (hdec hrun)
    rw [hs] at hinv ⊢
    refine agrees_startOrDone hinv ?_ ?_ ?_
    · simp [hlen]
    · have htimings : pastTimings (retire (labelWritten s.desc s)) = pastTimings s ++ [timingNow s] := by
        rw [pastTimings, hpast]
        exact timings_concat
      rw [htimings, retire_rows, labelWritten_cur_of_WB hot hnow hWB, List.map_append, ← h.rows]
      rfl
    · rw [pastTracker, hpast]
      exact (labelWritten_A_of_WB hot hnow hWB).trans trackerOver_concat.symm

theorem agrees_startState (anomaly forwarding : Bool) (prog : List Entry) : Agrees (startState anomaly forwarding prog) :=
  agrees_startOrDone (s := freshState anomaly forwarding prog) (stateInv_startState anomaly forwarding prog) rfl rfl rfl

theorem agrees_step {s t : State} (h : Agrees s) (hst : step s = .next t) : Agrees t := by
  obtain ⟨hrun, rfl⟩ := step_eq_next_iff.1 hst
  exact agrees_schedStep h hrun

/-- Every state of every run agrees with the closed form. -/
theorem agrees_of_reachable {s : State} (h : Reachable s) : Agrees s :=
  h.induct agrees_startState fun _ _ => agrees_step

/-! ### Whole runs -/

/-- The host's loop keeps what every step keeps (R173). -/
theorem runUntilDone_keeps {P : State → Prop} (hstep : ∀ s, P s → s.done = false → P (schedStep s.desc s)) {k : Nat}
    {s t : State} (hs : P s) (h : runUntilDone k s = .next t) : P t := by
  induction k generalizing s with
  | zero => cases h; exact hs
  | succ k ih =>
    cases hrun : s.done with
    | true => rw [runUntilDone_done _ s hrun] at h; cases h; exact hs
    | false => exact ih (hstep s hs hrun) (runUntilDone_step k s hrun ▸ h)

/-- The outcome of a run: it is over, and its rows and its tracker are those of the closed form. -/
theorem hostRun_closedForm (anomaly forwarding : Bool) (prog : List Entry) :
    ∃ s, hostRun anomaly forwarding prog = .next s ∧ s.done = true ∧
      s.rows = (timings anomaly forwarding (prog.map decode)).map rowOfTiming ∧
      s.A = trackerOver anomaly forwarding (prog.map decode) := by
  obtain ⟨s, hrun, hdone, ⟨-, -, hiff, -⟩, hprog⟩ := hostRun_ends anomaly forwarding prog
  obtain ⟨h, hf, ha⟩ : Agrees s ∧ s.forwarding = forwarding ∧ s.storeDataAvailAnomaly = anomaly :=
    runUntilDone_keeps
      (P := fun s => Agrees s ∧ s.forwarding = forwarding ∧ s.storeDataAvailAnomaly = anomaly)
      (fun s ⟨h, hf, ha⟩ hrun => ⟨agrees_schedStep h hrun, (schedStep_forwarding _ s).trans hf,
        (schedStep_storeDataAvailAnomaly _ s).trans ha⟩)
      ⟨agrees_startState anomaly forwarding prog, startState_forwarding _ _ _, startOrDone_storeDataAvailAnomaly _⟩ hrun
  have hpast : past s = prog.map decode := by
    rw [past, hiff.1 hdone, hprog, List.take_of_length_le (by simp)]
  refine ⟨s, hrun, hdone, ?_, ?_⟩
  · rw [h.rows, pastTimings, hpast, ha, hf]
  · rw [h.tracker hdone, pastTracker, hpast, ha, hf]

/-- Settles O50: the simulation `agrees_schedStep`, at the end of the run. -/
theorem runsAgreeWithTheClosedForm : Obligations.RunsAgreeWithTheClosedForm :=
  hostRun_closedForm

end Sys2Proof
end

section
/-! SUPPORT. The invariant's own statements, then the safety statements about the rows and the tracker of a run, read off the
closed form. -/

namespace Sys2Proof

open Sys2Proof.Machine

/-! ### The invariant -/

/-- Settles O41: `stateInv_schedStep`. -/
theorem everyStepKeepsTheInvariant : Obligations.EveryStepKeepsTheInvariant := by
  intro s t h hst
  obtain ⟨hrun, rfl⟩ := step_eq_next_iff.1 hst
  exact stateInv_schedStep h hrun s.desc

/-- Settles O43: `stateInv_startState`. -/
theorem invariantHoldsAtEveryStart : Obligations.InvariantHoldsAtEveryStart := stateInv_startState

/-- Settles O42: the reset state is the start of an empty run (log entry 1). -/
theorem invariantHoldsAtReset : Obligations.InvariantHoldsAtReset := stateInv_startState false false []

/-- Settles O16: the invariant ties `desc` to the entry at the index. -/
theorem stepRunsTheDecodedEntry : Obligations.StepRunsTheDecodedEntry := by
  rintro s e ⟨-, -, -, hdec, -⟩ hrun he
  have hdesc := hdec hrun
  rw [he, Option.map_some, Option.some_inj] at hdesc
  rw [step, hrun, hdesc]
  rfl

/-! ### The rows of a state, by the label cycles of its whole sequence -/

/-- The label cycles of every row of the run a state belongs to. -/
abbrev runTimings (s : State) : List Timing := timings s.storeDataAvailAnomaly s.forwarding (s.prog.map decode)

theorem getElem?_runTimings_of_past {s : State} {j : Nat} {t : Timing} (h : (pastTimings s)[j]? = some t) :
    (runTimings s)[j]? = some t := by
  obtain ⟨d, hd, rfl⟩ := getElem?_timings_eq_some.1 h
  obtain ⟨hj, hd⟩ : j < s.i ∧ (s.prog.map decode)[j]? = some d := by
    rw [past, List.getElem?_take] at hd
    split_ifs at hd with hj
    exact ⟨hj, hd⟩
  refine getElem?_timings_eq_some.2 ⟨d, hd, ?_⟩
  rw [past, List.take_take, Nat.min_eq_left hj.le]

section Rows
variable {s : State} (h : Agrees s)
include h

theorem timing_of_row {j : Nat} {row : Row} (hrow : s.rows[j]? = some row) :
    ∃ t, (pastTimings s)[j]? = some t ∧ t.Ordered ∧ row = rowOfTiming t := by
  rw [h.rows, List.getElem?_map, Option.map_eq_some_iff] at hrow
  obtain ⟨t, ht, rfl⟩ := hrow
  exact ⟨t, ht, ordered_of_mem_pastTimings (List.mem_of_getElem? ht), rfl⟩

/-- The instruction in progress is the one at the index. -/
theorem getElem?_runTimings_i (hrun : s.done = false) : (runTimings s)[s.i]? = some (timingNow s) := by
  obtain ⟨-, -, -, hdec, -⟩ := h.inv
  exact getElem?_timings_eq_some.2 ⟨s.desc, by rw [List.getElem?_map]; exact hdec hrun, rfl⟩

/-- Each row of a state, the one being written included, begins the row of its instruction. -/
theorem timing_of_rowsSoFar {j : Nat} {row : Row} (hrow : (rowsSoFar s)[j]? = some row) :
    ∃ t, (runTimings s)[j]? = some t ∧ t.Ordered ∧ row <+: rowOfTiming t := by
  have of_completed (hrow : s.rows[j]? = some row) :
      ∃ t, (runTimings s)[j]? = some t ∧ t.Ordered ∧ row <+: rowOfTiming t := by
    obtain ⟨t, ht, hord, rfl⟩ := timing_of_row h hrow
    exact ⟨t, getElem?_runTimings_of_past ht, hord, List.prefix_rfl⟩
  cases hrun : s.done with
  | true =>
    rw [rowsSoFar, hrun] at hrow
    exact of_completed hrow
  | false =>
    obtain ⟨-, hlen, -⟩ := h.inv
    simp only [rowsSoFar, hrun, Bool.false_eq_true, if_false, List.getElem?_append] at hrow
    split_ifs at hrow with hj
    · exact of_completed hrow
    · obtain ⟨hj', rfl⟩ : j = s.i ∧ s.cur = row := by
        obtain ⟨h0, hrow⟩ := List.getElem?_eq_some_iff.1 hrow
        simp at h0 hrow
        exact ⟨by lia, hrow⟩
      exact ⟨timingNow s, hj' ▸ getElem?_runTimings_i h hrun, timingNow_ordered s, (h.onTime hrun).cur_prefix⟩

/-- Between instructions the tracker is that of the completed ones. -/
theorem tracker_between (hat : s.done = true ∨ s.nxt = .IF) : s.A = pastTracker s := by
  cases hrun : s.done with
  | true => exact h.tracker hrun
  | false =>
    have hIF : s.nxt = .IF := hat.resolve_left (by simp [hrun])
    rw [(h.onTime hrun).tracker, hIF]
    rfl

end Rows

/-- Settles O44: the rows of the closed form have the shape. -/
theorem everyCompletedRowHasTheShape : Obligations.EveryCompletedRowHasTheShape := by
  intro s hs row hrow
  rw [(agrees_of_reachable hs).rows] at hrow
  obtain ⟨t, -, rfl⟩ := List.mem_map.1 hrow
  exact ⟨_, _, _, _, _, rfl⟩

/-- Settles O45: every label of a later row is at a later cycle (`cycle_lt_cycle_of_timings`). -/
theorem noTwoInstructionsShareAStageInACycle : Obligations.NoTwoInstructionsShareAStageInACycle := by
  intro s hs j k p q st hjk hp hq
  obtain ⟨t, ht, htord, hpt⟩ := timing_of_rowsSoFar (agrees_of_reachable hs) hp
  obtain ⟨u, hu, huord, hqu⟩ := timing_of_rowsSoFar (agrees_of_reachable hs) hq
  have hlt := cycle_lt_cycle_of_timings hjk ht hu st
  refine ⟨fun x y hx hy => ?_, fun c hc hc' => ?_⟩
  · rwa [eq_cycle_of_labelCycle htord hpt hx, eq_cycle_of_labelCycle huord hqu hy]
  · have hct := (cellAt_rowOfTiming_eq_stage htord).1 (cellAt_of_prefix hpt hc)
    have hcu := (cellAt_rowOfTiming_eq_stage huord).1 (cellAt_of_prefix hqu hc')
    exact hlt.ne (hct.symm.trans hcu)

/-- Settles O46: a row follows the one before it (`follows_of_timings`), and between consecutive labels there are only
bubbles. -/
theorem issueIsMonotonicAndStallsAreHandedOn : Obligations.IssueIsMonotonicAndStallsAreHandedOn := by
  intro s hs j p q hp hq
  obtain ⟨t, ht, htord, rfl⟩ := timing_of_row (agrees_of_reachable hs) hp
  obtain ⟨u, hu, huord, rfl⟩ := timing_of_row (agrees_of_reachable hs) hq
  obtain ⟨hIF, hID, -⟩ := follows_of_timings ht hu
  refine ⟨t.IF, t.ID, t.EXE, u.IF, labelCycle_rowOfTiming htord, labelCycle_rowOfTiming htord,
    labelCycle_rowOfTiming htord, labelCycle_rowOfTiming huord, hIF, hIF ▸ htord.IF_lt_ID, ?_, ?_⟩
  · rw [bubblesBetween_rowOfTiming htord rfl]
    rfl
  · rw [bubblesBetween_rowOfTiming huord rfl, Timing.cycle_ID, Timing.cycle_IF, hIF, hID]

/-- Settles O47: the recurrences put WB right after MEM, and MEM right after EXE but for a register checked before MEM. -/
theorem onlyAStoreStallsBetweenEXEAndMEM : Obligations.OnlyAStoreStallsBetweenEXEAndMEM := by
  intro s hs j row e hrow he
  obtain ⟨t, ht, hord, rfl⟩ := timing_of_row (agrees_of_reachable hs) hrow
  obtain ⟨d, hd, hnext⟩ := getElem?_timings_eq_some.1 (getElem?_runTimings_of_past ht)
  obtain rfl : decode e = d := by simpa [he] using hd
  rw [bubblesBetween_rowOfTiming hord rfl, bubblesBetween_rowOfTiming hord rfl]
  dsimp
  refine ⟨by rw [hord.WB_eq]; lia, fun hstall => eq_store_of_need_MEM fun hneed => hstall ?_⟩
  have hMEM : t.MEM = t.EXE + 1 := by
    rw [← hnext, nextTiming, timingOf_MEM, hneed]
    rfl
  lia

/-- Between instructions each entry is 0 or a cycle some completed row has reached. -/
theorem tracked_between {s : State} (h : Agrees s) (hat : s.done = true ∨ s.nxt = .IF) (r : RegId) :
    trackerGet s.A r = 0 ∨ ∃ row ∈ s.rows, trackerGet s.A r ≤ row.length := by
  have hle : trackerGet (pastTracker s) r ≤ lastRecorded s.forwarding (pastTimings s).getLast? := trackerOver_le r
  rw [tracker_between h hat]
  cases hlast : (pastTimings s).getLast? with
  | none =>
    rw [hlast] at hle
    exact .inl (Nat.le_zero.1 hle)
  | some p =>
    have hmem := List.mem_of_getLast? hlast
    have hord := ordered_of_mem_pastTimings hmem
    refine .inr ⟨rowOfTiming p, h.rows ▸ List.mem_map_of_mem hmem, ?_⟩
    rw [length_rowOfTiming hord]
    exact (hlast ▸ hle).trans (lastRecorded_le_WB hord)

/-- Settles O48: the bounds of the recurrences, row by row. -/
theorem runsStayWithinTheBounds : Obligations.RunsStayWithinTheBounds := by
  intro s hs
  have h := agrees_of_reachable hs
  obtain ⟨hle, hlen, -⟩ := h.inv
  refine ⟨fun hat r => tracked_between h hat r, fun j p q hp hq => ?_, fun j row hrow => ?_⟩
  · obtain ⟨t, ht, htord, rfl⟩ := timing_of_row h hp
    obtain ⟨u, hu, huord, rfl⟩ := timing_of_row h hq
    rw [length_rowOfTiming htord, length_rowOfTiming huord]
    exact ⟨(follows_of_timings ht hu).cycle_lt_cycle htord huord .WB, WB_le_WB_add_three ht hu⟩
  · have hj := (List.getElem?_eq_some_iff.1 hrow).1
    obtain ⟨t, ht, hord, rfl⟩ := timing_of_row h hrow
    have hWB := WB_timings_le ht
    rw [length_rowOfTiming hord]
    refine ⟨hWB, by lia, labelCycle_rowOfTiming hord, fun f hf => ?_⟩
    rw [labelCycle_rowOfTiming hord] at hf
    cases hf
    exact bubbles_rowOfTiming hord

/-! ### The tracker -/

/-- Settles O51: a hold writes nothing, and an instruction writes a cycle that no entry is past. -/
theorem trackerEntriesNeverDecrease : Obligations.TrackerEntriesNeverDecrease := by
  intro s t hs hst r
  have h := agrees_of_reachable hs
  obtain ⟨hrun, rfl⟩ := step_eq_next_iff.1 hst
  by_cases hheld : Held s.desc s
  · rw [schedStep_of_held hheld, appendCell_A]
  · have hot := h.onTime hrun
    have hnow := eq_cycle_of_not_held h hrun hheld
    have hA : (enterStage s.desc (s.cur.length + 1) s).A = (labelWritten s.desc s).A := leaveStage_A _
    rw [schedStep_of_not_held hheld, hA, labelWritten_A hot hnow, hot.tracker]
    exact trackerAwaiting_le_stageWrite (fun _ => ordered_of_getLast?_pastTimings) trackerOver_le _ _

/-! ### Finite builds -/

theorem core_run_prog {k : Nat} {s t : State} (h : Host.Core.run core k s = Host.Outcome.next t) : t.prog = s.prog :=
  core_run_rel (R := fun s t => t.prog = s.prog) (fun _ => rfl) (fun h h' => h'.trans h) step_prog h

/-- A build that starts a sequence has cycle numbers wide enough for it, and starts it as the unbounded build does (D5,
R110). -/
theorem start_eq_next {b : Config.Build} {forwarding : Bool} {prog : List Entry} {s : State} :
    start b forwarding prog = .next s ↔
      accepts b prog.length = true ∧ startState b.storeDataAvailAnomaly forwarding prog = s := by
  unfold start
  split_ifs with h <;> simp [h]

theorem accepts_iff {b : Config.Build} {n : Nat} :
    accepts b n = true ↔
      (∀ m, b.maxInstrs = some m → n ≤ m) ∧ ∀ k, b.cycleBits = some k → n = 0 ∨ 3 * n + 2 < 2 ^ k := by
  unfold accepts
  cases b.maxInstrs <;> cases b.cycleBits <;> simp

/-- Every row of a run, the one being written included, is within the bound of R142. -/
theorem length_le_of_mem_rowsSoFar {s : State} (h : Agrees s) {row : Row} (hrow : row ∈ rowsSoFar s) :
    0 < s.prog.length ∧ row.length ≤ 3 * s.prog.length + 2 := by
  obtain ⟨j, hj⟩ := List.getElem?_of_mem hrow
  obtain ⟨t, ht, hord, hpre⟩ := timing_of_rowsSoFar h hj
  have hlen := hpre.length_le
  have hWB := WB_timings_le ht
  have hlt := (List.getElem?_eq_some_iff.1 ht).1
  rw [length_rowOfTiming hord] at hlen
  rw [length_timings, List.length_map] at hlt
  constructor <;> lia

/-- Every tracker entry is 0 or a cycle that a row has reached, the one being written included. -/
theorem tracked_by_rowsSoFar {s : State} (h : Agrees s) (r : RegId) :
    trackerGet s.A r = 0 ∨ ∃ row ∈ rowsSoFar s, trackerGet s.A r ≤ row.length := by
  cases hrun : s.done with
  | true => simpa [rowsSoFar, hrun] using tracked_between h (.inl hrun) r
  | false =>
    obtain ⟨-, -, -, -, -, -, htracked⟩ := h.inv
    exact .inr (by simpa [rowsSoFar, hrun, or_comm] using htracked r)

/-- Settles O56: R142 bounds every row by the cycle the build was sized for, and the invariant every entry by a row. -/
theorem acceptedRunsFitTheirCycleBits : Obligations.AcceptedRunsFitTheirCycleBits := by
  intro b forwarding prog s0 s k bits hbits hstart hrun
  obtain ⟨hacc, rfl⟩ := start_eq_next.1 hstart
  have h := agrees_of_reachable ⟨_, _, _, _, hrun⟩
  have hprog : s.prog = prog := (core_run_prog hrun).trans (startState_prog _ _ _)
  have hrows (row : Row) (hrow : row ∈ rowsSoFar s) : row.length < 2 ^ bits := by
    obtain ⟨hpos, hlen⟩ := length_le_of_mem_rowsSoFar h hrow
    have hwide := (accepts_iff.1 hacc).2 bits hbits
    rw [hprog] at hpos hlen
    lia
  refine ⟨fun r => ?_, hrows⟩
  obtain h0 | ⟨row, hrow, hle⟩ := tracked_by_rowsSoFar h r
  · rw [h0]
    exact Nat.two_pow_pos bits
  · exact hle.trans_lt (hrows row hrow)

/-! ### The first instruction -/

/-- The first row of the closed form is held nowhere: every register is ready from cycle 1. -/
theorem nextTiming_nil (anomaly forwarding : Bool) (d : Instr) : nextTiming anomaly forwarding [] d = ⟨1, 2, 3, 4, 5⟩ := by
  have hready {base : Cycle} (hbase : 0 < base) (rs : List RegId) : maxReady base trackerReset rs = base :=
    maxReady_eq_base fun r _ => by rwa [trackerGet_trackerReset]
  rw [nextTiming, timings_nil, trackerOver_nil, List.getLast?_nil, timingOf, hready (by decide), hready (by decide)]

/-- A step of the first instruction writes the next label; the fifth completes its row. -/
theorem step_of_first {s : State} (h : Agrees s) (hrun : s.done = false) (hi : s.i = 0) :
    ∃ t, step s = .next t ∧ Agrees t ∧
      ((s.cur.length < 4 ∧ t.done = false ∧ t.i = 0 ∧ t.cur.length = s.cur.length + 1) ∨
        (s.cur.length = 4 ∧ t.i = 1)) := by
  have hnow : timingNow s = ⟨1, 2, 3, 4, 5⟩ := by
    rw [timingNow, past, hi]
    exact nextTiming_nil _ _ _
  obtain ⟨hle, hlt⟩ := (Timing.awaited_eq_some (timingNow_ordered s)).1 (h.onTime hrun).awaited
  have hfree : ¬ Held s.desc s := by
    rw [held_iff_of_agrees h hrun]
    rw [hnow] at hle ⊢
    cases hst : s.nxt <;> rw [hst] at hle <;> dsimp at hle ⊢ <;> lia
  refine ⟨_, step_eq_next_iff.2 ⟨hrun, rfl⟩, agrees_schedStep h hrun, ?_⟩
  rw [hnow] at hle hlt
  obtain ⟨hheld, -⟩ | ⟨-, st, hst, hs⟩ | ⟨-, hWB, hs⟩ := schedStep_outcomes s.desc s
  · exact absurd hheld hfree
  · refine .inl ⟨?_, by simp [hs, hrun], by simp [hs, hi], by simp [hs]⟩
    cases hnxt : s.nxt <;> rw [hnxt] at hlt hst <;> cases hst <;> dsimp at hlt <;> lia
  · refine .inr ⟨?_, by simp [hs, hi]⟩
    rw [hWB] at hle hlt
    dsimp at hle hlt
    lia

theorem run_of_first {k : Nat} {s : State} (h : Agrees s) (hrun : s.done = false) (hi : s.i = 0)
    (hk : s.cur.length + k = 4) : ∃ t : State, Host.Core.run core (k + 1) s = Host.Outcome.next t ∧ Agrees t ∧ t.i = 1 := by
  induction k generalizing s with
  | zero =>
    obtain ⟨t, hs, ht, hcase⟩ := step_of_first h hrun hi
    refine ⟨t, core_run_next 0 s t hs, ht, ?_⟩
    obtain ⟨hlt, -⟩ | ⟨-, hi⟩ := hcase
    · lia
    · exact hi
  | succ k ih =>
    obtain ⟨t, hs, ht, ⟨-, hrun', hi', hlen⟩ | ⟨hlen, -⟩⟩ := step_of_first h hrun hi
    · rw [core_run_next _ s t hs]
      exact ih ht hrun' hi' (by lia)
    · lia

/-- Settles O55: the first instruction's five steps write the five labels (`run_of_first`). -/
theorem firstInstructionIsNeverHeld : Obligations.FirstInstructionIsNeverHeld := by
  refine ⟨fun r c hc => (ready_iff _ _ _).2 (by rwa [trackerGet_trackerReset]), fun anomaly forwarding e es => ?_⟩
  obtain ⟨t, hrun, ht, hi⟩ := run_of_first (k := 4) (agrees_startState anomaly forwarding (e :: es)) rfl rfl rfl
  have hprog : t.prog = e :: es := (core_run_prog hrun).trans (startState_prog _ _ _)
  have hpast : past t = [] ++ [decode e] := by
    rw [past, hprog, hi]
    rfl
  refine ⟨t, hrun, ?_, hi⟩
  rw [ht.rows, pastTimings, hpast, timings_concat, nextTiming_nil]
  rfl

end Sys2Proof
end

section
/-! SUPPORT. The two modes compared (R143): run side by side, the closed forms keep each stage and each tracker entry of the run
with forwarding no later; and the bubbles of a run telescope to the last ID and EXE cycles where nothing waits between EXE and
MEM. -/

namespace Sys2Proof

open Sys2Proof.Machine

/-! ### No stage later -/

/-- Each stage of one row is at most as late as that of another. -/
def NoLater (t u : Timing) : Prop := ∀ st, t.cycle st ≤ u.cycle st

/-- Each entry of one tracker is at most that of another. -/
def TrackerLe (A B : Tracker) : Prop := ∀ r, trackerGet A r ≤ trackerGet B r

theorem maxReady_mono {base base' : Cycle} {A B : Tracker} (hbase : base ≤ base') (hA : TrackerLe A B) (rs : List RegId) :
    maxReady base A rs ≤ maxReady base' B rs := by
  by_contra h
  obtain h | ⟨r, hr, h⟩ := lt_maxReady_iff.1 (not_le.1 h)
  · exact ((hbase.trans (le_maxReady base' B rs)).trans_lt h).false
  · exact (lt_maxReady_iff.2 (.inr ⟨r, hr, h.trans (hA r)⟩)).false

/-- The recurrences are monotone in the row before and in the tracker. -/
theorem timingOf_noLater {prev prev' : Option Timing} {A B : Tracker} (hprev : Option.Rel NoLater prev prev')
    (hA : TrackerLe A B) (d : Instr) : NoLater (timingOf prev A d) (timingOf prev' B d) := by
  obtain ⟨hIF, hID, hEXE⟩ : (timingOf prev A d).IF ≤ (timingOf prev' B d).IF ∧
      (timingOf prev A d).ID ≤ (timingOf prev' B d).ID ∧ (timingOf prev A d).EXE ≤ (timingOf prev' B d).EXE := by
    cases hprev with
    | none => exact ⟨le_rfl, le_rfl, maxReady_mono le_rfl hA _⟩
    | some h => exact ⟨h .ID, h .EXE, maxReady_mono (h .MEM) hA _⟩
  have hMEM : (timingOf prev A d).MEM ≤ (timingOf prev' B d).MEM := maxReady_mono (Nat.succ_le_succ hEXE) hA _
  intro st
  cases st with
  | IF => exact hIF
  | ID => exact hID
  | EXE => exact hEXE
  | MEM => exact hMEM
  | WB => exact Nat.succ_le_succ hMEM

/-- In both modes the same classes record a destination, those that define one (R66, R126). -/
theorem isSome_availStage (forwarding : Bool) (f : Format) : (availStage forwarding f).isSome = f.hasDestination := by
  cases f <;> cases forwarding <;> rfl

/-- Forwarding selects an earlier stage (R126), so on no later rows an earlier cycle. -/
theorem availCycle_le {t u : Timing} (h : NoLater t u) (hu : u.Ordered) (f : Format) :
    availCycle t (availStage true f) ≤ availCycle u (availStage false f) := by
  have hWB (st : Stage) : t.cycle st ≤ u.WB := (h st).trans (hu.cycle_le_WB st)
  cases f with
  | R => exact hWB .EXE
  | I => exact hWB .EXE
  | LOAD => exact hWB .MEM
  | LUI => exact hWB .EXE
  | AUIPC => exact hWB .EXE
  | STORE => exact le_rfl
  | BRANCH => exact le_rfl
  | UNKNOWN => exact le_rfl

theorem setAvail_trackerLe {c c' : Cycle} {A B : Tracker} (r : Option RegId) (hc : c ≤ c') (hA : TrackerLe A B) :
    TrackerLe (setAvail r c A) (setAvail r c' B) := by
  intro r'
  rw [trackerGet_setAvail, trackerGet_setAvail]
  split_ifs
  · exact hc
  · exact hA r'

theorem trackerAfter_trackerLe {t u : Timing} {A B : Tracker} (anomaly : Bool) (d : Instr) (h : NoLater t u) (hu : u.Ordered)
    (hA : TrackerLe A B) : TrackerLe (trackerAfter anomaly true d t A) (trackerAfter anomaly false d u B) := by
  rw [trackerAfter, trackerAfter, isSome_availStage, isSome_availStage]
  exact setAvail_trackerLe _ (h .MEM) (setAvail_trackerLe _ (availCycle_le h hu _) hA)

/-- The two runs side by side, at the end of a sequence. -/
theorem forwarding_noLater (anomaly : Bool) (ds : List Instr) :
    Option.Rel NoLater (timings anomaly true ds).getLast? (timings anomaly false ds).getLast? ∧
      TrackerLe (trackerOver anomaly true ds) (trackerOver anomaly false ds) := by
  induction ds using List.reverseRecOn with
  | nil => exact ⟨.none, fun _ => le_rfl⟩
  | append_singleton ds d ih =>
    have hnext : NoLater (nextTiming anomaly true ds d) (nextTiming anomaly false ds d) := timingOf_noLater ih.1 ih.2 d
    rw [timings_concat, timings_concat, List.getLast?_concat, List.getLast?_concat, trackerOver_concat, trackerOver_concat]
    exact ⟨.some hnext, trackerAfter_trackerLe anomaly d hnext nextTiming_ordered ih.2⟩

theorem nextTiming_noLater (anomaly : Bool) (ds : List Instr) (d : Instr) :
    NoLater (nextTiming anomaly true ds d) (nextTiming anomaly false ds d) := by
  obtain ⟨hprev, hA⟩ := forwarding_noLater anomaly ds
  exact timingOf_noLater hprev hA d

theorem rows_of_hostRun {anomaly forwarding : Bool} {prog : List Entry} {s : State}
    (h : hostRun anomaly forwarding prog = .next s) :
    s.rows = (timings anomaly forwarding (prog.map decode)).map rowOfTiming := by
  obtain ⟨t, ht, -, hrows, -⟩ := hostRun_closedForm anomaly forwarding prog
  rw [h] at ht
  cases ht
  exact hrows

/-- Settles O52: the runs side by side (`nextTiming_noLater`), at row `j`. -/
theorem forwardingMakesNoStageLater : Obligations.ForwardingMakesNoStageLater := by
  intro anomaly prog s1 s0 h1 h0 j p q st x y hp hq hx hy
  rw [rows_of_hostRun h1, List.getElem?_map, Option.map_eq_some_iff] at hp
  rw [rows_of_hostRun h0, List.getElem?_map, Option.map_eq_some_iff] at hq
  obtain ⟨t, ht, rfl⟩ := hp
  obtain ⟨u, hu, rfl⟩ := hq
  obtain rfl := eq_cycle_of_labelCycle (ordered_of_mem_timings (List.mem_of_getElem? ht)) List.prefix_rfl hx
  obtain rfl := eq_cycle_of_labelCycle (ordered_of_mem_timings (List.mem_of_getElem? hu)) List.prefix_rfl hy
  obtain ⟨d, hd, rfl⟩ := getElem?_timings_eq_some.1 ht
  obtain ⟨d', hd', rfl⟩ := getElem?_timings_eq_some.1 hu
  obtain rfl : d = d' := Option.some_inj.1 (hd.symm.trans hd')
  exact nextTiming_noLater anomaly _ d st

/-! ### No more bubbles -/

/-- What the bubbles of a run telescope to: the ID and EXE cycles of its last row, and those of the cycles before the first. -/
def issueSum : Option Timing → Nat
  | none => 3
  | some p => p.ID + p.EXE

theorem issueSum_mono {prev prev' : Option Timing} (h : Option.Rel NoLater prev prev') : issueSum prev ≤ issueSum prev' := by
  cases h with
  | none => exact le_rfl
  | some h => exact Nat.add_le_add (h .ID) (h .EXE)

/-- The bubbles of one row: what it adds to the sum, and its wait between EXE and MEM. -/
theorem bubbles_add_issueSum {prev : Option Timing} {A : Tracker} {d : Instr} (hprev : ∀ p ∈ prev, p.Ordered) :
    bubbles (rowOfTiming (timingOf prev A d)) + 2 + issueSum prev =
      issueSum (some (timingOf prev A d)) + ((timingOf prev A d).MEM - ((timingOf prev A d).EXE + 1)) := by
  have hord := timingOf_ordered hprev A d
  have hbubbles := bubbles_rowOfTiming hord
  obtain ⟨-, -, -, hMEM, hWB⟩ := hord
  cases prev with
  | none =>
    have hIF := timingOf_none_IF A d
    have hID := timingOf_none_ID A d
    simp only [issueSum]
    lia
  | some p =>
    obtain ⟨hIF, hID, -⟩ := timingOf_follows p A d
    simp only [issueSum]
    lia

/-- The bubbles of a run are at least what they telescope to, and with forwarding exactly that. -/
theorem issueSum_le_bubbles (anomaly forwarding : Bool) (ds : List Instr) :
    issueSum (timings anomaly forwarding ds).getLast? ≤
      ((timings anomaly forwarding ds).map (fun t => bubbles (rowOfTiming t))).sum + 2 * ds.length + 3 ∧
    (forwarding = true → issueSum (timings anomaly forwarding ds).getLast? =
      ((timings anomaly forwarding ds).map (fun t => bubbles (rowOfTiming t))).sum + 2 * ds.length + 3) := by
  induction ds using List.reverseRecOn with
  | nil => exact ⟨le_rfl, fun _ => rfl⟩
  | append_singleton ds d ih =>
    have hrow := bubbles_add_issueSum (prev := (timings anomaly forwarding ds).getLast?)
      (A := trackerOver anomaly forwarding ds) (d := d) fun _ => ordered_of_getLast?_timings
    rw [timings_concat, List.getLast?_concat, List.map_append, List.sum_append, List.length_append]
    simp only [nextTiming, List.map_cons, List.map_nil, List.sum_singleton, List.length_singleton]
    obtain ⟨hle, heq⟩ := ih
    refine ⟨by lia, ?_⟩
    rintro rfl
    have hMEM := timingOf_MEM_of_forwarding (d := d) (trackerOver_le (anomaly := anomaly) (forwarding := true) (ds := ds))
    have := heq rfl
    lia

/-- Settles O53: with forwarding the bubbles are what they telescope to (`issueSum_le_bubbles`), which is no more than without
since no stage is later (`forwarding_noLater`). -/
theorem forwardingAddsNoBubbles : Obligations.ForwardingAddsNoBubbles := by
  intro anomaly prog s1 s0 h1 h0
  have hwith := (issueSum_le_bubbles anomaly true (prog.map decode)).2 rfl
  have hwithout := (issueSum_le_bubbles anomaly false (prog.map decode)).1
  have hle := issueSum_mono (forwarding_noLater anomaly (prog.map decode)).1
  rw [rows_of_hostRun h1, rows_of_hostRun h0, List.map_map, List.map_map]
  simp only [Function.comp_def]
  lia

end Sys2Proof
end

section
/-! SUPPORT. The table of stall counts (section 3 of 70_reset_and_hazards.md): a producer and fillers that read nothing written
are not held, so the consumer finds the pipeline clear and one entry of its windows set, the producer's. -/

namespace Sys2Proof

open Sys2Proof.Machine

/-! ### What a sequence leaves in the tracker -/

section Tracker
variable {forwarding : Bool} {ds : List Instr} {d : Instr} {t : Timing} {A : Tracker} {r : RegId}

theorem trackerGet_trackerAfter_of_ne (h : d.destinationRegister ≠ some r) :
    trackerGet (trackerAfter false forwarding d t A) r = trackerGet A r := by
  rw [trackerAfter, if_neg Bool.false_ne_true, setAvail_none, trackerGet_setAvail, if_neg]
  split_ifs <;> simp [h]

theorem hasDestination_of_destinationRegister (h : d.destinationRegister = some r) : d.format.hasDestination = true := by
  cases d <;> cases h <;> rfl

theorem trackerGet_trackerAfter_of_eq (h : d.destinationRegister = some r) :
    trackerGet (trackerAfter false forwarding d t A) r = availCycle t (availStage forwarding d.format) := by
  rw [trackerAfter, if_neg Bool.false_ne_true, setAvail_none, isSome_availStage,
    if_pos (hasDestination_of_destinationRegister h), trackerGet_setAvail, if_pos h]

/-- A register that no instruction of a sequence writes is still at its reset value. -/
theorem trackerGet_trackerOver_of_not_written (h : ∀ g ∈ ds, g.destinationRegister ≠ some r) :
    trackerGet (trackerOver false forwarding ds) r = 0 := by
  induction ds using List.reverseRecOn with
  | nil => exact trackerGet_trackerReset r
  | append_singleton ds d ih =>
    rw [trackerOver_concat, trackerGet_trackerAfter_of_ne (h d (by simp))]
    exact ih fun g hg => h g (by simp [hg])

end Tracker

/-! ### Windows with at most one register set -/

/-- The registers of the check windows are sources (R120). -/
theorem mem_sourceRegisters_of_mem_need {d : Instr} {st : Stage} {r : RegId} (h : r ∈ need d st) : r ∈ d.sourceRegisters := by
  cases d <;> cases st <;> simp_all [need, Instr.sourceRegisters]

/-- Where every other register of a window is ready, the instruction waits for one register if that is in the window. -/
theorem maxReady_of_others_ready {base : Cycle} {A : Tracker} {rs : List RegId} {x : RegId}
    (h : ∀ r ∈ rs, r ≠ x → trackerGet A r < base) :
    maxReady base A rs = if x ∈ rs then max base (trackerGet A x + 1) else base := by
  refine eq_of_forall_lt_iff fun c => lt_maxReady_iff.trans ?_
  split_ifs with hx
  · rw [lt_max_iff, Nat.lt_succ_iff]
    refine ⟨?_, Or.imp_right fun hle => ⟨x, hx, hle⟩⟩
    rintro (hlt | ⟨r, hr, hle⟩)
    · exact .inl hlt
    · by_cases hrx : r = x
      · exact .inr (hrx ▸ hle)
      · exact .inl (hle.trans_lt (h r hr hrx))
  · refine ⟨?_, .inl⟩
    rintro (hlt | ⟨r, hr, hle⟩)
    · exact hlt
    · exact hle.trans_lt (h r hr fun hrx => hx (hrx ▸ hr))

/-- An instruction none of whose sources is set follows the row before as fast as the pipeline lets it. -/
theorem timingOf_of_sources_unset {p : Timing} (hp : p.Ordered) {A : Tracker} {d : Instr}
    (h : ∀ r ∈ d.sourceRegisters, trackerGet A r = 0) :
    timingOf (some p) A d = ⟨p.ID, p.EXE, p.MEM, p.MEM + 1, p.MEM + 2⟩ := by
  have hready {base : Cycle} (hbase : 0 < base) (st : Stage) : maxReady base A (need d st) = base :=
    maxReady_eq_base fun r hr => by rwa [h r (mem_sourceRegisters_of_mem_need hr)]
  have hpos : 0 < p.MEM := lt_of_le_of_lt (Nat.zero_le _) hp.EXE_lt_MEM
  rw [timingOf, hready hpos, hready (Nat.succ_pos _)]

/-! ### The producer and the fillers -/

/-- The cycle at which a producer at the start of a run records its destination. -/
def producedAt (forwarding : Bool) (P : Instr) : Cycle := availCycle ⟨1, 2, 3, 4, 5⟩ (availStage forwarding P.format)

theorem producedAt_eq {P : Instr} {x : RegId} (h : P.destinationRegister = some x) (forwarding : Bool) :
    producedAt forwarding P = if forwarding then (if P.format = .LOAD then 4 else 3) else 5 := by
  cases P <;> cases h <;> cases forwarding <;> rfl

section Fillers
variable {forwarding : Bool} {P : Instr} {F : List Instr} {x : RegId}

/-- Instructions that read nothing written before them are not held: row `j` enters its stages at cycles `j + 1` to `j + 5`. -/
theorem getLast?_timings_of_unread
    (hunread : (P :: F).Pairwise fun g f => ∀ r, g.destinationRegister = some r → r ∉ f.sourceRegisters) :
    (timings false forwarding (P :: F)).getLast? =
      some ⟨F.length + 1, F.length + 2, F.length + 3, F.length + 4, F.length + 5⟩ := by
  induction F using List.reverseRecOn with
  | nil => rw [← List.nil_append [P], timings_concat, List.getLast?_concat, nextTiming_nil]; rfl
  | append_singleton F f ih =>
    rw [← List.cons_append, List.pairwise_append] at hunread
    obtain ⟨hunread, -, hf⟩ := hunread
    have hsources (r : RegId) (hr : r ∈ f.sourceRegisters) : trackerGet (trackerOver false forwarding (P :: F)) r = 0 :=
      trackerGet_trackerOver_of_not_written fun g hg hdest => hf g hg f (by simp) r hdest hr
    have hlast := ih hunread
    have hp := ordered_of_getLast?_timings hlast
    rw [← List.cons_append, timings_concat, List.getLast?_concat, nextTiming, hlast, timingOf_of_sources_unset hp hsources,
      List.length_append]
    rfl

/-- The producer's entry stays as it recorded it. -/
theorem trackerGet_producer (hP : P.destinationRegister = some x) (hF : ∀ f ∈ F, f.destinationRegister ≠ some x) :
    trackerGet (trackerOver false forwarding (P :: F)) x = producedAt forwarding P := by
  induction F using List.reverseRecOn with
  | nil =>
    rw [← List.nil_append [P], trackerOver_concat, trackerGet_trackerAfter_of_eq hP, nextTiming_nil]
    rfl
  | append_singleton F f ih =>
    rw [← List.cons_append, trackerOver_concat, trackerGet_trackerAfter_of_ne (hF f (by simp))]
    exact ih fun g hg => hF g (by simp [hg])

end Fillers

/-- The consumer's row: its bubbles are the wait for the producer's entry, where that is in a window. -/
theorem timing_of_consumer {prev : Timing} {A : Tracker} {C : Instr} {x : RegId} {k : Nat}
    (hprev : prev = ⟨k, k + 1, k + 2, k + 3, k + 4⟩) (hA : ∀ r ∈ C.sourceRegisters, r ≠ x → trackerGet A r = 0) :
    (timingOf (some prev) A C).IF = k + 1 ∧
      (timingOf (some prev) A C).EXE =
        (if x ∈ need C .EXE then max (k + 3) (trackerGet A x + 1) else k + 3) ∧
      (timingOf (some prev) A C).MEM =
        (if x ∈ need C .MEM then max ((timingOf (some prev) A C).EXE + 1) (trackerGet A x + 1)
          else (timingOf (some prev) A C).EXE + 1) := by
  have others {base : Cycle} (hbase : 0 < base) (st : Stage) (r : RegId) (hr : r ∈ need C st) (hrx : r ≠ x) :
      trackerGet A r < base := by rwa [hA r (mem_sourceRegisters_of_mem_need hr) hrx]
  subst hprev
  exact ⟨rfl, maxReady_of_others_ready (others (Nat.succ_pos _) .EXE),
    maxReady_of_others_ready (others (Nat.succ_pos _) .MEM)⟩

/-- Settles O57: the consumer's row by the recurrences, with the pipeline clear and the producer's entry alone set. -/
theorem stallCountsByDistanceFromTheProducer : Obligations.StallCountsByDistanceFromTheProducer := by
  intro forwarding prog P C F x hprog hP hunread hF hC
  obtain ⟨s, hrun, -, hrows, -⟩ := hostRun_closedForm false forwarding prog
  have hget : (prog.map decode)[F.length + 1]? = some C := by simp [hprog]
  have htake : (prog.map decode).take (F.length + 1) = P :: F := by simp [hprog]
  have hA (r : RegId) (hr : r ∈ C.sourceRegisters) (hrx : r ≠ x) :
      trackerGet (trackerOver false forwarding (P :: F)) r = 0 :=
    trackerGet_trackerOver_of_not_written (hC r hr hrx)
  have hx := (trackerGet_producer hP hF).trans (producedAt_eq hP forwarding)
  have hbubbles := bubbles_rowOfTiming (nextTiming_ordered (anomaly := false) (forwarding := forwarding) (ds := P :: F) (d := C))
  have hWB := (nextTiming_ordered (anomaly := false) (forwarding := forwarding) (ds := P :: F) (d := C)).WB_eq
  refine ⟨s, rowOfTiming (nextTiming false forwarding (P :: F) C), hrun, ?_, ?_⟩
  · rw [hrows, List.getElem?_map, getElem?_timings, hget, htake]
    rfl
  · rw [nextTiming, getLast?_timings_of_unread hunread] at hbubbles hWB ⊢
    obtain ⟨hIF, hEXE, hMEM⟩ := timing_of_consumer (k := F.length + 1) (C := C) rfl hA
    rw [hx] at hEXE hMEM
    refine ⟨fun hwindow => ?_, fun hfree hwindow => ?_⟩
    · rw [if_pos hwindow] at hEXE
      split_ifs at hEXE hMEM ⊢ <;> lia
    · rw [if_neg hfree] at hEXE
      rw [if_pos hwindow] at hMEM
      split_ifs at hMEM ⊢ <;> lia

end Sys2Proof
end

section
/-! SUPPORT. The decoder and the encoder, bit by bit: which bits a layout puts where, which a format reads, and that the one
undoes the other; then the statements about them. -/

namespace Sys2Proof

/-! ### The opcode map -/

theorem format_assemble (f : Format) (rd rs1 rs2 : RegId) : (assemble f rd rs1 rs2).format = f := by
  cases f <;> rfl

theorem format_decode_word (w : Word) : (decode (.word w)).format = formatOfOpcode (opcode w) :=
  format_assemble _ _ _ _

/-- The map is one-to-one but for its default. -/
theorem formatOfOpcode_eq_iff {op : Nat} {f : Format} (hf : f ≠ .UNKNOWN) :
    formatOfOpcode op = f ↔ op = opcodeOfFormat f := by
  constructor
  · rintro rfl
    unfold formatOfOpcode at hf ⊢
    split_ifs at hf ⊢ with h1 h2 h3 h4 h5 h6 h7
    exacts [h1, h2, h3, h4, h5, h6, h7, absurd rfl hf]
  · rintro rfl
    cases f with
    | UNKNOWN => exact absurd rfl hf
    | _ => rfl

theorem formatOfOpcode_eq_unknown_iff {op : Nat} :
    formatOfOpcode op = .UNKNOWN ↔
      op ∉ [0b0110011, 0b0010011, 0b0000011, 0b0100011, 0b1100011, 0b0110111, 0b0010111] := by
  refine ⟨fun h hmem => ?_, formatOfOpcode_of_not_mem⟩
  have known : ∀ v ∈ [0b0110011, 0b0010011, 0b0000011, 0b0100011, 0b1100011, 0b0110111, 0b0010111],
      formatOfOpcode v ≠ .UNKNOWN := by decide
  exact known op hmem h

theorem extractLsb'_eq_iff (w : Word) (v : BitVec 7) : w.extractLsb' 0 7 = v ↔ opcode w = v.toNat := by
  rw [← BitVec.toNat_inj, BitVec.extractLsb'_toNat, opcode_eq_mod, Nat.shiftRight_zero]

theorem and_mask_eq_iff (w v : Word) : w &&& 0x0000007F = v ↔ opcode w = v.toNat := by
  rw [← BitVec.toNat_inj, BitVec.toNat_and, opcode_eq_mod]
  exact iff_of_eq (congrArg (· = v.toNat) (Nat.and_two_pow_sub_one_eq_mod w.toNat 7))

/-- Settles O4: both sides of each clause speak of the opcode's value, and the map is `formatOfOpcode_eq_iff`. -/
theorem opcodeMapChoosesTheFormat : Obligations.OpcodeMapChoosesTheFormat := by
  intro w
  have map (f : Format) (hf : f ≠ .UNKNOWN) (v : BitVec 7) (hv : v.toNat = opcodeOfFormat f) :
      (decode (.word w)).format = f ↔ w.extractLsb' 0 7 = v := by
    rw [format_decode_word, formatOfOpcode_eq_iff hf, extractLsb'_eq_iff, hv]
  have mask (u : Word) (v : BitVec 7) (huv : u.toNat = v.toNat) : w &&& 0x0000007F = u ↔ w.extractLsb' 0 7 = v := by
    rw [and_mask_eq_iff, extractLsb'_eq_iff, huv]
  refine ⟨map .R (by decide) _ rfl, map .I (by decide) _ rfl, map .LOAD (by decide) _ rfl, map .STORE (by decide) _ rfl,
    map .BRANCH (by decide) _ rfl, map .LUI (by decide) _ rfl, map .AUIPC (by decide) _ rfl, ?_,
    mask _ _ rfl, mask _ _ rfl, mask _ _ rfl, mask _ _ rfl, mask _ _ rfl, mask _ _ rfl, mask _ _ rfl⟩
  rw [format_decode_word, formatOfOpcode_eq_unknown_iff]
  simp [extractLsb'_eq_iff]

/-! ### Words that are not recognised -/

theorem eq_unknown_of_format {i : Instr} (h : i.format = .UNKNOWN) : i = .unknown := by
  cases i <;> cases h
  rfl

theorem decode_of_opcode_not_mem {w : Word}
    (h : w.toNat % 128 ∉ [0b0110011, 0b0010011, 0b0000011, 0b0100011, 0b1100011, 0b0110111, 0b0010111]) :
    decode (.word w) = .unknown :=
  eq_unknown_of_format (by rw [format_decode_word, opcode_eq_mod, formatOfOpcode_of_not_mem h])

/-- Settles O6: `unknown` is the one instruction of its format. -/
theorem invalidEntryDecodesLikeAnUnrecognisedWord : Obligations.InvalidEntryDecodesLikeAnUnrecognisedWord :=
  ⟨rfl, fun _ h => eq_unknown_of_format h⟩

/-- Settles O7: every clause names opcodes outside the map (`decode_of_opcode_not_mem`). -/
theorem unrecognisedOpcodesAreUnknown : Obligations.UnrecognisedOpcodesAreUnknown := by
  refine ⟨fun w h => ?_, rfl, fun w h => decode_of_opcode_not_mem ?_, fun w h => decode_of_opcode_not_mem ?_,
    by decide, by decide⟩
  · rw [decode_of_opcode_not_mem h]
    exact ⟨rfl, everyInstructionAnswersNext _⟩
  · have unmapped : ∀ op ∈ [0b1101111, 0b1100111, 0b0001111, 0b1110011, 0b0101111],
        op ∉ [0b0110011, 0b0010011, 0b0000011, 0b0100011, 0b1100011, 0b0110111, 0b0010111] := by decide
    exact unmapped _ h
  · have mapped : ∀ op ∈ [0b0110011, 0b0010011, 0b0000011, 0b0100011, 0b1100011, 0b0110111, 0b0010111],
        op % 4 = 3 := by decide
    intro hmem
    have := mapped _ hmem
    omega

/-- Settles O8: each word is one evaluation of the decoder. -/
theorem writtenOutWordsDecode : Obligations.WrittenOutWordsDecode := by
  unfold Obligations.WrittenOutWordsDecode
  decide

/-! ### The port wires -/

theorem toNat_regWire (r : Option RegId) : (regWire r).toNat = (r.map Fin.val).getD 0 := by
  cases r with
  | none => rfl
  | some r => exact Nat.mod_eq_of_lt r.isLt

theorem length_sourceRegisters_le (i : Instr) : i.sourceRegisters.length ≤ 2 := by
  cases i <;> simp [Instr.sourceRegisters]

/-- Settles O9: each wire carries its part of the descriptor, whose registers and count fit (`toNat_regWire`,
`length_sourceRegisters_le`). -/
theorem portWiresShowTheDescriptor : Obligations.PortWiresShowTheDescriptor := by
  intro e
  refine ⟨?_, ?_, ?_, toNat_regWire _, toNat_regWire _, rfl, toNat_regWire _⟩
  · change formatCode (decode e).format = _
    cases (decode e).format <;> rfl
  · cases e <;> simp [decoderWires]
  · exact Nat.mod_eq_of_lt (Nat.lt_succ_of_le ((length_sourceRegisters_le _).trans (by decide)))

/-! ### Layouts -/

section Layout
variable {op : Nat} (hop : op < 128) (rd rs1 rs2 : RegId)
include hop

/-- A layout is its fields at their places, with nothing between `rd` and `rs1`. -/
theorem toNat_layout : (layout op rd rs1 rs2).toNat = 2 ^ 7 * (2 ^ 8 * (2 ^ 5 * rs2.val + rs1.val) + rd.val) + op := by
  have := rd.isLt
  have := rs1.isLt
  have := rs2.isLt
  rw [layout, BitVec.toNat_ofNat]
  omega

theorem decode_layout : decode (.word (layout op rd rs1 rs2)) = assemble (formatOfOpcode op) rd rs1 rs2 := by
  have hrd := rd.isLt
  have hrs1 := rs1.isLt
  have hrs2 := rs2.isLt
  have fieldEq {k : Nat} {r : RegId} (h : (layout op rd rs1 rs2).toNat / 2 ^ k % 32 = r.val) :
      (Fin.ofNat 32 ((layout op rd rs1 rs2).toNat / 2 ^ k) : RegId) = r := Fin.ext h
  rw [decode_word_of_format rfl, fieldEq (k := 7) (r := rd), fieldEq (k := 15) (r := rs1), fieldEq (k := 20) (r := rs2),
    ← opcode_eq_mod, Laws.EncodedOpcode.opcode_layout op hop]
  all_goals
    rw [toNat_layout hop]
    omega

/-- The bits of a layout. -/
theorem getLsbD_layout (i : Nat) : (layout op rd rs1 rs2).getLsbD i =
    if i < 7 then op.testBit i
    else if i < 15 then rd.val.testBit (i - 7)
    else if i < 20 then rs1.val.testBit (i - 15)
    else rs2.val.testBit (i - 20) := by
  have hrd : rd.val < 2 ^ 8 := rd.isLt.trans (by decide)
  rw [← BitVec.testBit_toNat, toNat_layout hop, Nat.testBit_two_pow_mul_add _ hop, Nat.testBit_two_pow_mul_add _ hrd,
    Nat.testBit_two_pow_mul_add _ rs1.isLt, show i - 7 - 8 = i - 15 by omega, show i - 15 - 5 = i - 20 by omega]
  refine if_congr Iff.rfl rfl (if_congr ?_ rfl (if_congr ?_ rfl rfl)) <;> omega

end Layout

/-- Decoding undoes encoding: `encode` lays out the opcode of the format and the fields the format reads. -/
theorem decode_encode (i : Instr) : decode (.word (encode i)) = i := by
  cases i <;> exact decode_layout (by decide) _ _ _

theorem decodeTableWord_toNat (w : Word) : decodeTableWord 32 w.toNat = some (decode (.word w)) := by
  rw [decodeTableWord, if_pos le_rfl, Nat.mod_eq_of_lt w.isLt, BitVec.ofNat_toNat, BitVec.setWidth_eq]

/-- Settles O1: `decode_encode`. -/
theorem decodeOfEncodeIsTheInstruction : Obligations.DecodeOfEncodeIsTheInstruction := by
  intro i _
  rw [decodeTableWord_toNat, decode_encode]
  exact ⟨rfl, rfl⟩

/-! ### The bits a format reads -/

/-- The bit positions a format reads: its opcode and the fields its descriptor carries. -/
def readsBit (f : Format) (i : Nat) : Bool :=
  i < 7 || (f.hasDestination && (7 ≤ i && i < 12)) || (1 ≤ f.sourceCount && (15 ≤ i && i < 20)) ||
    (2 ≤ f.sourceCount && (20 ≤ i && i < 25))

/-- The last column of R66 is the rest. -/
theorem getLsbD_ignoredBits (f : Format) {i : Nat} (hi : i < 32) : (ignoredBits f).getLsbD i = !readsBit f i := by
  have all : ∀ f ∈ [Format.R, .I, .LOAD, .STORE, .BRANCH, .LUI, .AUIPC, .UNKNOWN], ∀ i < 32,
      (ignoredBits f).getLsbD i = !readsBit f i := by decide
  exact all f (by cases f <;> decide) i hi

theorem testBit_opcode (w : Word) (i : Nat) : (opcode w).testBit i = (decide (i < 7) && w.getLsbD i) := by
  rw [opcode_eq_mod, Nat.testBit_mod_two_pow w.toNat 7 i, BitVec.testBit_toNat]

theorem testBit_field (w : Word) (k j : Nat) :
    (Fin.ofNat 32 (w.toNat / 2 ^ k) : RegId).val.testBit j = (decide (j < 5) && w.getLsbD (k + j)) := by
  change (w.toNat / 2 ^ k % 2 ^ 5).testBit j = _
  rw [Nat.testBit_mod_two_pow, Nat.testBit_div_two_pow, BitVec.testBit_toNat, Nat.add_comm]

theorem testBit_ite (p : Prop) [Decidable p] (r : RegId) (j : Nat) :
    (if p then r else 0).val.testBit j = (decide p && r.val.testBit j) := by
  split_ifs with h <;> simp [h]

theorem encode_assemble (f : Format) (rd rs1 rs2 : RegId) :
    encode (assemble f rd rs1 rs2) = layout (opcodeOfFormat f) (if f.hasDestination then rd else 0)
      (if 1 ≤ f.sourceCount then rs1 else 0) (if 2 ≤ f.sourceCount then rs2 else 0) := by
  cases f <;> rfl

theorem opcodeOfFormat_lt (f : Format) : opcodeOfFormat f < 128 := by
  cases f <;> decide

/-- Encoding what a word decodes to keeps the word's bits where its format reads. -/
theorem getLsbD_encode_decode {w : Word} (h : (decode (.word w)).format ≠ .UNKNOWN) (i : Nat) :
    (encode (decode (.word w))).getLsbD i = (readsBit (decode (.word w)).format i && w.getLsbD i) := by
  have hop : opcode w = opcodeOfFormat (formatOfOpcode (opcode w)) :=
    (formatOfOpcode_eq_iff (format_decode_word w ▸ h)).1 rfl
  rw [format_decode_word, decode_word_of_format rfl, ← opcode_eq_mod, encode_assemble, getLsbD_layout (opcodeOfFormat_lt _),
    ← hop, testBit_opcode, testBit_ite, testBit_ite, testBit_ite, testBit_field, testBit_field, testBit_field]
  unfold readsBit
  split_ifs with h7 h15 h20
  · simp [h7]
  · have hrs1 : ¬ 15 ≤ i := by omega
    have hrs2 : ¬ 20 ≤ i := by omega
    have hrd : i - 7 < 5 ↔ i < 12 := by omega
    simp [h7, hrs1, hrs2, hrd, Nat.add_sub_of_le (not_lt.1 h7), not_lt.1 h7, Bool.and_assoc]
  · have hrd : ¬ i < 12 := by omega
    have hrs2 : ¬ 20 ≤ i := by omega
    have hrs1 : i - 15 < 5 := by omega
    simp [h7, hrd, hrs2, hrs1, h20, Nat.add_sub_of_le (not_lt.1 h15), not_lt.1 h15]
  · have hrd : ¬ i < 12 := by omega
    have hrs2 : i - 20 < 5 ↔ i < 25 := by omega
    simp [h7, hrd, h20, hrs2, Nat.add_sub_of_le (not_lt.1 h20), not_lt.1 h20, Bool.and_assoc]

/-- So it gives the word with the ignored bits cleared. -/
theorem encode_decode_word {w : Word} (h : (decode (.word w)).format ≠ .UNKNOWN) :
    encode (decode (.word w)) = w &&& ~~~ (ignoredBits (decode (.word w)).format) := by
  refine BitVec.eq_of_getLsbD_eq fun i hi => ?_
  rw [getLsbD_encode_decode h, BitVec.getLsbD_and, BitVec.getLsbD_not, getLsbD_ignoredBits _ hi]
  simp [hi, Bool.and_comm]

/-- Settles O2: a format reads the bits it does not ignore (`encode_decode_word`). -/
theorem encodeOfDecodeKeepsTheReadBits : Obligations.EncodeOfDecodeKeepsTheReadBits :=
  fun _ => ⟨fun h => encode_decode_word (mt eq_unknown_of_format h), fun h => by rw [h]; rfl⟩

/-- Every format reads the opcode. -/
theorem opcode_and_not_ignoredBits (w : Word) (f : Format) : opcode (w &&& ~~~ ignoredBits f) = opcode w := by
  refine Nat.eq_of_testBit_eq fun i => ?_
  rw [testBit_opcode, testBit_opcode]
  by_cases hi : i < 7
  · have hi32 : i < 32 := by omega
    rw [BitVec.getLsbD_and, BitVec.getLsbD_not, getLsbD_ignoredBits f hi32]
    simp [hi, hi32, readsBit]
  · simp [hi]

/-- Settles O3: the opcode is read, so the formats agree; then encoding gives one word for both
(`encode_decode_word`), and decoding undoes it (`decode_encode`). -/
theorem ignoredBitsLeaveTheDescriptorUnchanged : Obligations.IgnoredBitsLeaveTheDescriptorUnchanged := by
  intro w w' h
  have hopcode : opcode w' = opcode w := by
    rw [← opcode_and_not_ignoredBits w', ← h, opcode_and_not_ignoredBits]
  have hformat : (decode (.word w')).format = (decode (.word w)).format := by
    rw [format_decode_word, format_decode_word, hopcode]
  by_cases hunknown : (decode (.word w)).format = .UNKNOWN
  · rw [eq_unknown_of_format hunknown, eq_unknown_of_format (hformat.trans hunknown)]
  · have hencode : encode (decode (.word w')) = encode (decode (.word w)) := by
      rw [encode_decode_word hunknown, encode_decode_word (hformat ▸ hunknown), hformat, h]
    rw [← decode_encode (decode (.word w')), hencode, decode_encode]

end Sys2Proof
end

section
/-! SUPPORT. The start of a run, a step's cell, the end of an instruction and a placed word; then the statements about them. -/

namespace Sys2Proof

open Sys2Proof.Machine

/-- Settles O11: the start of an empty sequence and of one with a first entry. -/
theorem startPutsEveryElementAtItsResetValue : Obligations.StartPutsEveryElementAtItsResetValue := by
  refine ⟨rfl, fun b forwarding prog hacc => ⟨_, start_eq_next.2 ⟨hacc, rfl⟩, fun r => ?_, startState_forwarding _ _ _,
    startOrDone_storeDataAvailAnomaly _, startState_prog _ _ _, startOrDone_i _, startOrDone_rows _, ?_⟩⟩
  · rw [startState, startOrDone_A, freshState_A, trackerGet_trackerReset]
  · cases prog with
    | nil => exact ⟨rfl, rfl, fun _ he => (nomatch he), iff_of_true rfl rfl⟩
    | cons e es =>
      refine ⟨rfl, rfl, fun e' he => ?_, iff_of_false Bool.false_ne_true (List.cons_ne_nil e es)⟩
      cases he
      rfl

/-- Settles O12: both sides evaluate to the same state. -/
theorem resetIsTheStartOfAnEmptyRun : Obligations.ResetIsTheStartOfAnEmptyRun := ⟨rfl, rfl, rfl⟩

/-- Settles O13: refused means not accepted (`accepts_iff`). -/
theorem finiteBuildRefusesLongSequences : Obligations.FiniteBuildRefusesLongSequences := by
  intro b forwarding prog
  have hrefused : start b forwarding prog = .refused .sequenceTooLong ↔ ¬ accepts b prog.length = true := by
    unfold start
    split_ifs with h <;> simp [h]
  rw [hrefused, accepts_iff, not_and_or]
  simp [not_or, List.length_eq_zero_iff]

/-- Settles O14: `step` answers `schedStep` until the run is over, and each outcome of that writes one cell. -/
theorem stepIsEnabledExactlyUntilDone : Obligations.StepIsEnabledExactlyUntilDone := by
  intro s
  refine ⟨⟨fun ⟨t, ht⟩ => (step_eq_next_iff.1 ht).1, fun hrun => ⟨_, step_eq_next_iff.2 ⟨hrun, rfl⟩⟩⟩,
    fun t ht => ?_⟩
  obtain ⟨-, rfl⟩ := step_eq_next_iff.1 ht
  obtain ⟨-, hs⟩ | ⟨-, st, -, hs⟩ | ⟨-, -, hs⟩ := schedStep_outcomes s.desc s
  · exact ⟨holdCell s.nxt, .inl (by simp [hs])⟩
  · exact ⟨.stage s.nxt, .inl (by simp [hs])⟩
  · exact ⟨.stage s.nxt, .inr (by simp [hs])⟩

/-- Settles O15: the branch of `step` for a run that is over. -/
theorem stepAfterDoneIsRefused : Obligations.StepAfterDoneIsRefused := by
  intro s hdone
  rw [step, if_pos hdone]

/-! ### The end of an instruction -/

/-- A row with its one IF cell at cycle `c` has its IF label there. -/
theorem ifCycle_eq {row : Row} {c : Cycle} (hc : 1 ≤ c) (h : ∀ k, row[k]? = some (Cell.stage .IF) ↔ k + 1 = c) :
    ifCycle row = c := by
  obtain ⟨k, rfl⟩ : ∃ k, c = k + 1 := ⟨c - 1, by lia⟩
  have hfind : row.findIdx? (· == .stage .IF) = some k := by
    obtain ⟨hlt, hcell⟩ := List.getElem?_eq_some_iff.1 ((h k).2 rfl)
    refine List.findIdx?_eq_some_iff_getElem.2 ⟨hlt, by simp [hcell], fun j hj => ?_⟩
    have hne : row[j]? ≠ some (.stage .IF) := fun hcell' => by
      have := (h j).1 hcell'
      lia
    simpa [List.getElem?_eq_getElem (hj.trans hlt)] using hne
  rw [ifCycle, labelCycle, hfind]
  rfl

/-- Settles O23: `finish` is `startOrDone` of the retired state, and the row retired is the one the next row is padded by. -/
theorem finishAppendsTheRowAndStartsTheNext : Obligations.FinishAppendsTheRowAndStartsTheNext := by
  intro s c hlen hc hIF
  refine ⟨fun hlast => ?_, fun e he => ?_⟩
  · exact startOrDone_none (retire s) (by simp [hlast])
  · have hprev : prevRow (retire s) = some s.cur := by simp [prevRow, ← hlen]
    have hpad : padding (retire s) = List.replicate c .blank := by rw [padding, hprev, ← ifCycle_eq hc hIF]
    rw [finish, startOrDone_some (retire s) e he, startInstr, hpad]
    rfl

/-! ### A placed word -/

theorem withFetchWord_toNat (s : State) (w : Word) : s.withFetchWord 32 w.toNat = placeWord s w := by
  rw [State.withFetchWord, Nat.mod_eq_of_lt w.isLt, BitVec.ofNat_toNat, BitVec.setWidth_eq]

theorem placeWord_prog (s : State) (w : Word) :
    (placeWord s w).prog = s.prog.take s.i ++ .word w :: s.prog.drop (s.i + 1) := rfl

/-- Inside the sequence or at its end, the entry at the index is the word and the others stay. -/
theorem getElem?_placeWord_prog {s : State} (w : Word) (hi : s.i ≤ s.prog.length) (j : Nat) :
    (placeWord s w).prog[j]? = if j = s.i then some (.word w) else s.prog[j]? := by
  have hlen : (s.prog.take s.i).length = s.i := List.length_take_of_le hi
  rw [placeWord_prog]
  obtain hj | rfl | hj := Nat.lt_trichotomy j s.i
  · rw [List.getElem?_append_left (hlen.symm ▸ hj), List.getElem?_take, if_pos hj, if_neg hj.ne]
  · rw [List.getElem?_append_right hlen.le, hlen, Nat.sub_self, if_pos rfl]
    rfl
  · rw [List.getElem?_append_right (hlen.symm ▸ hj.le), hlen, List.getElem?_cons, if_neg (by lia), List.getElem?_drop,
      if_neg hj.ne']
    congr 1
    lia

/-- Settles O17: the placed state is the one `placeWord` writes, not done, so the next step runs its `desc`. -/
theorem placedWordIsRunByTheNextStep : Obligations.PlacedWordIsRunByTheNextStep := by
  intro s w p
  have hp : p = placeWord s w := withFetchWord_toNat s w
  clear_value p
  subst hp
  refine ⟨rfl, rfl, rfl, rfl, rfl, rfl, rfl, rfl, rfl, rfl, fun hi => ⟨?_, fun j hj => ?_⟩, fun hi => ?_⟩
  · rw [getElem?_placeWord_prog w hi, if_pos rfl]
  · rw [getElem?_placeWord_prog w hi, if_neg hj]
  · rw [placeWord_prog, List.take_of_length_le hi.le, List.drop_eq_nil_of_le (by lia)]

end Sys2Proof
end

section
/-! SUPPORT. One step of each class: the stages by which every class goes, the tracker write of a class with a destination and
of one without; then the class statements and the frames. -/

namespace Sys2Proof

open Sys2Proof.Machine

/-! ### The stages of every class -/

section Stages
variable {d : Instr} {s : State} (hp : ¬ PrevHolds s)
include hp

/-- With no bubble before it and its window ready, an instruction is not held. -/
theorem not_held_of_ready (hready : ∀ r ∈ need d s.nxt, trackerGet s.A r < s.cur.length + 1) : ¬ Held d s := by
  rintro (h | ⟨r, hr, hn⟩)
  · exact hp h
  · rw [(ready_iff _ _ _).2 (hready r hr)] at hn
    cases hn

/-- Only EXE and MEM have a window to wait for. -/
theorem not_held_of_no_window (hEXE : s.nxt ≠ .EXE) (hMEM : s.nxt ≠ .MEM) : ¬ Held d s :=
  not_held_of_ready hp fun _ hr => ((stage_of_mem_need hr).elim hEXE hMEM).elim

theorem exec_at_IF (h : s.nxt = .IF) : exec d s = .next { s with cur := s.cur ++ [Cell.stage .IF], nxt := .ID } :=
  (stallPropagationHoldsEveryClass d s).2 hp h

theorem exec_at_ID (h : s.nxt = .ID) : exec d s = .next { s with cur := s.cur ++ [Cell.stage .ID], nxt := .EXE } := by
  rw [exec_of_not_held (not_held_of_no_window hp (by simp [h]) (by simp [h])), enterStage_eq, h]

theorem exec_at_EXE (h : s.nxt = .EXE) (hready : ∀ r ∈ need d .EXE, trackerGet s.A r < s.cur.length + 1) :
    exec d s = .next { availWrite d .EXE (s.cur.length + 1) s with cur := s.cur ++ [Cell.stage .EXE], nxt := .MEM } := by
  rw [exec_of_not_held (not_held_of_ready hp (h ▸ hready)), enterStage_eq, h]

theorem exec_at_MEM (h : s.nxt = .MEM) (hready : ∀ r ∈ need d .MEM, trackerGet s.A r < s.cur.length + 1) :
    exec d s = .next { availWrite d .MEM (s.cur.length + 1) s with cur := s.cur ++ [Cell.stage .MEM], nxt := .WB } := by
  rw [exec_of_not_held (not_held_of_ready hp (h ▸ hready)), enterStage_eq, h]

theorem exec_at_WB (h : s.nxt = .WB) :
    exec d s = .next (finish { availWrite d .WB (s.cur.length + 1) s with cur := s.cur ++ [Cell.stage .WB] }) := by
  rw [exec_of_not_held (not_held_of_no_window hp (by simp [h]) (by simp [h])), enterStage_eq, h]

end Stages

/-- A register of the window that is not ready holds an instruction, whatever the row before. -/
theorem held_of_window {d : Instr} {s : State} {r : RegId} (hr : r ∈ need d s.nxt)
    (hle : s.cur.length + 1 ≤ trackerGet s.A r) : Held d s :=
  .inr ⟨r, hr, by simpa [ready] using hle⟩

/-- A window of two registers is ready when both are. -/
theorem forall_mem_pair_lt {A : Tracker} {r r' : RegId} {c : Cycle} (h : trackerGet A r < c) (h' : trackerGet A r' < c) :
    ∀ x ∈ [r, r'], trackerGet A x < c :=
  List.forall_mem_cons.2 ⟨h, List.forall_mem_singleton.2 h'⟩

theorem exec_of_window {d : Instr} {s : State} {r : RegId} {st : Stage} (hst : s.nxt = st) (hr : r ∈ need d st)
    (hle : s.cur.length + 1 ≤ trackerGet s.A r) : exec d s = .next { s with cur := s.cur ++ [Cell.bubble] } := by
  subst hst
  rw [exec_eq, schedStep_of_held (held_of_window hr hle), holdCell_of_mem_need hr, appendCell]

/-! ### The tracker writes -/

section Writes
variable {d : Instr} {rd : RegId} (st : Stage) (c : Cycle) (s : State)

/-- A class with a destination writes that alone, at the stage of the forwarding selection. -/
theorem availWrite_of_destination (h : d.destinationRegister = some rd) :
    availWrite d st c s =
      { s with A := if availStage s.forwarding d.format = some st then trackerSet s.A rd c else s.A } := by
  have hanomaly : anomalyWrite d st s.storeDataAvailAnomaly = none := by
    cases d <;> cases h <;> simp [anomalyWrite, anomalyRegister]
  rw [availWrite, hanomaly, destinationWrite, h]
  split_ifs <;> rfl

/-- A class without one writes at most its anomaly register, at MEM (D3). -/
theorem availWrite_of_no_destination (h : d.destinationRegister = none) :
    availWrite d st c s =
      { s with A := setAvail (anomalyWrite d st s.storeDataAvailAnomaly) c s.A } := by
  have hdest : destinationWrite d st s.forwarding = none := by
    rw [destinationWrite, h, ite_self]
  rw [availWrite, hdest]
  rfl

theorem anomalyWrite_of_ne_MEM (d : Instr) {st : Stage} (h : st ≠ .MEM) (anomaly : Bool) : anomalyWrite d st anomaly = none :=
  if_neg fun ⟨_, hst⟩ => h hst

theorem anomalyWrite_of_register_none {d : Instr} (h : anomalyRegister d = none) (st : Stage) (anomaly : Bool) :
    anomalyWrite d st anomaly = none := by
  rw [anomalyWrite, h, ite_self]

/-- A class with neither register writes nothing. -/
theorem availWrite_of_no_register (h : d.destinationRegister = none) (h' : anomalyRegister d = none) :
    availWrite d st c s = s := by
  rw [availWrite_of_no_destination st c s h, anomalyWrite_of_register_none h', setAvail_none]

end Writes

/-! ### The classes that compute: R, I, LUI and AUIPC -/

/-- The classes whose destination is available at EXE with forwarding and at WB without, and that check no register before
MEM. -/
structure Computes (d : Instr) (rd : RegId) : Prop where
  destination : d.destinationRegister = some rd
  selection : ∀ forwarding, availStage forwarding d.format = some (if forwarding then .EXE else .WB)
  no_window : need d .MEM = []

theorem computes_r (rd rs1 rs2 : RegId) : Computes (.r rd rs1 rs2) rd := ⟨rfl, fun f => by cases f <;> rfl, rfl⟩
theorem computes_i (rd rs1 : RegId) : Computes (.i rd rs1) rd := ⟨rfl, fun f => by cases f <;> rfl, rfl⟩
theorem computes_lui (rd : RegId) : Computes (.lui rd) rd := ⟨rfl, fun f => by cases f <;> rfl, rfl⟩
theorem computes_auipc (rd : RegId) : Computes (.auipc rd) rd := ⟨rfl, fun f => by cases f <;> rfl, rfl⟩

namespace Computes
variable {d : Instr} {rd : RegId} (hd : Computes d rd) {s : State}
include hd

theorem availWrite_EXE (c : Cycle) :
    availWrite d .EXE c s = { s with A := if s.forwarding then trackerSet s.A rd c else s.A } := by
  rw [availWrite_of_destination _ _ _ hd.destination, hd.selection]
  cases s.forwarding <;> rfl

theorem availWrite_MEM (c : Cycle) : availWrite d .MEM c s = s := by
  rw [availWrite_of_destination _ _ _ hd.destination, hd.selection, if_neg]
  cases s.forwarding <;> decide

theorem availWrite_WB (c : Cycle) :
    availWrite d .WB c s = { s with A := if s.forwarding then s.A else trackerSet s.A rd c } := by
  rw [availWrite_of_destination _ _ _ hd.destination, hd.selection]
  cases s.forwarding <;> rfl

variable (hp : ¬ PrevHolds s)
include hp

theorem exec_EXE (h : s.nxt = .EXE) (hready : ∀ r ∈ need d .EXE, trackerGet s.A r < s.cur.length + 1) :
    exec d s = .next { s with
      cur := s.cur ++ [Cell.stage .EXE], nxt := .MEM
      A := if s.forwarding then trackerSet s.A rd (s.cur.length + 1) else s.A } := by
  rw [exec_at_EXE hp h hready, hd.availWrite_EXE]

theorem exec_MEM (h : s.nxt = .MEM) :
    exec d s = .next { s with cur := s.cur ++ [Cell.stage .MEM], nxt := .WB } := by
  rw [exec_at_MEM hp h (by simp [hd.no_window]), hd.availWrite_MEM]

theorem exec_WB (h : s.nxt = .WB) :
    exec d s = .next (finish { s with
      cur := s.cur ++ [Cell.stage .WB]
      A := if s.forwarding then s.A else trackerSet s.A rd (s.cur.length + 1) }) := by
  rw [exec_at_WB hp h, hd.availWrite_WB]

end Computes

/-- Settles O24: a class that computes, with both registers in its window. -/
theorem classRAtEveryStage : Obligations.ClassRAtEveryStage := by
  intro rd rs1 rs2 s hp
  have hd := computes_r rd rs1 rs2
  refine ⟨exec_at_IF hp, exec_at_ID hp, fun h h1 h2 => hd.exec_EXE hp h (forall_mem_pair_lt h1 h2),
    fun h hn => ?_, hd.exec_MEM hp, hd.exec_WB hp⟩
  obtain hn | hn := hn
  · exact exec_of_window h (by simp [need]) hn
  · exact exec_of_window h (by simp [need]) hn

/-- Settles O25: a class that computes, with `rs1` in its window. -/
theorem classIAtEveryStage : Obligations.ClassIAtEveryStage := by
  intro rd rs1 s hp
  have hd := computes_i rd rs1
  exact ⟨exec_at_IF hp, exec_at_ID hp, fun h h1 => hd.exec_EXE hp h (by simpa [need] using h1),
    fun h => exec_of_window h (by simp [need]), hd.exec_MEM hp, hd.exec_WB hp⟩

/-- Settles O29: two classes that compute, with no window. -/
theorem classesLuiAndAuipcAtEveryStage : Obligations.ClassesLuiAndAuipcAtEveryStage := by
  intro rd i s hi hp
  obtain ⟨hd, hfree⟩ : Computes i rd ∧ need i .EXE = [] := by
    obtain rfl | rfl := hi
    · exact ⟨computes_lui rd, rfl⟩
    · exact ⟨computes_auipc rd, rfl⟩
  exact ⟨exec_at_IF hp, exec_at_ID hp, fun h => hd.exec_EXE hp h (by simp [hfree]), hd.exec_MEM hp, hd.exec_WB hp⟩

/-! ### The classes with no write of their own: BRANCH and UNKNOWN -/

section Writeless
variable {d : Instr} {s : State} (hd : d.destinationRegister = none) (hd' : anomalyRegister d = none) (hp : ¬ PrevHolds s)
include hd hd' hp

theorem exec_EXE_of_no_register (h : s.nxt = .EXE) (hready : ∀ r ∈ need d .EXE, trackerGet s.A r < s.cur.length + 1) :
    exec d s = .next { s with cur := s.cur ++ [Cell.stage .EXE], nxt := .MEM } := by
  rw [exec_at_EXE hp h hready, availWrite_of_no_register _ _ _ hd hd']

theorem exec_MEM_of_no_register (h : s.nxt = .MEM) (hready : ∀ r ∈ need d .MEM, trackerGet s.A r < s.cur.length + 1) :
    exec d s = .next { s with cur := s.cur ++ [Cell.stage .MEM], nxt := .WB } := by
  rw [exec_at_MEM hp h hready, availWrite_of_no_register _ _ _ hd hd']

theorem exec_WB_of_no_register (h : s.nxt = .WB) :
    exec d s = .next (finish { s with cur := s.cur ++ [Cell.stage .WB] }) := by
  rw [exec_at_WB hp h, availWrite_of_no_register _ _ _ hd hd']

end Writeless

/-- Settles O28: a class that writes nothing, with both registers in its window. -/
theorem classBranchAtEveryStage : Obligations.ClassBranchAtEveryStage := by
  intro rs1 rs2 s hp
  refine ⟨exec_at_IF hp, exec_at_ID hp,
    fun h h1 h2 => exec_EXE_of_no_register rfl rfl hp h (forall_mem_pair_lt h1 h2), fun h hn => ?_, fun h => exec_MEM_of_no_register rfl rfl hp h (by simp [need]), exec_WB_of_no_register rfl rfl hp⟩
  obtain hn | hn := hn
  · exact exec_of_window h (by simp [need]) hn
  · exact exec_of_window h (by simp [need]) hn

/-- Settles O30: a class that writes nothing, with no window. -/
theorem classUnknownAtEveryStage : Obligations.ClassUnknownAtEveryStage := by
  intro s
  refine ⟨(stallPropagationHoldsEveryClass .unknown s).1, fun hp => ⟨exec_at_IF hp, exec_at_ID hp, fun h => ?_, fun h => ?_,
    exec_WB_of_no_register rfl rfl hp⟩⟩
  · exact exec_EXE_of_no_register rfl rfl hp h (by simp [need])
  · exact exec_MEM_of_no_register rfl rfl hp h (by simp [need])

/-! ### LOAD and STORE -/

/-- Settles O26: the destination is written at MEM with forwarding. -/
theorem classLoadAtEveryStage : Obligations.ClassLoadAtEveryStage := by
  intro rd rs1 s hp
  refine ⟨exec_at_IF hp, exec_at_ID hp, fun h h1 => ?_, fun h => exec_of_window h (by simp [need]), fun h => ?_, fun h => ?_⟩
  · rw [exec_at_EXE hp h (by simpa [need] using h1), availWrite_of_destination _ _ _ rfl]
    cases s.forwarding <;> rfl
  · rw [exec_at_MEM hp h (by simp [need]), availWrite_of_destination _ _ _ rfl]
    cases s.forwarding <;> rfl
  · rw [exec_at_WB hp h, availWrite_of_destination _ _ _ rfl]
    cases s.forwarding <;> rfl

/-- Settles O27: `rs2` is in the window before EXE and `rs1` in that before MEM, where the anomaly writes. -/
theorem classStoreAtEveryStage : Obligations.ClassStoreAtEveryStage := by
  intro rs1 rs2 s hp
  refine ⟨exec_at_IF hp, exec_at_ID hp, fun h h2 => ?_, fun h => exec_of_window h (by simp [need]), fun h h1 => ?_,
    fun h => exec_of_window h (by simp [need]), fun h => ?_⟩
  · rw [exec_at_EXE hp h (by simpa [need] using h2), availWrite_of_no_destination _ _ _ rfl,
      anomalyWrite_of_ne_MEM _ (by decide)]
    rfl
  · rw [exec_at_MEM hp h (by simpa [need] using h1), availWrite_of_no_destination _ _ _ rfl]
    cases s.storeDataAvailAnomaly <;> rfl
  · rw [exec_at_WB hp h, availWrite_of_no_destination _ _ _ rfl, anomalyWrite_of_ne_MEM _ (by decide)]
    rfl

/-- Settles O32: the class statements at EXE and MEM, whose conditions are on the tracker before the step. -/
theorem readinessIsTestedBeforeTheWrite : Obligations.ReadinessIsTestedBeforeTheWrite := by
  intro r s hp hr
  refine ⟨fun h hf i hi => ?_, fun h ha => ?_⟩
  · have hd : Computes i r ∧ ∀ r' ∈ need i .EXE, r' = r := by
      obtain rfl | rfl : i = .r r r r ∨ i = .i r r := by simpa using hi
      · exact ⟨computes_r r r r, by simp [need]⟩
      · exact ⟨computes_i r r, by simp [need]⟩
    rw [hd.1.exec_EXE hp h fun r' hr' => hd.2 r' hr' ▸ hr, if_pos hf]
  · obtain ⟨-, -, -, -, hMEM, -⟩ := classStoreAtEveryStage r r s hp
    rw [hMEM h hr, if_pos ha]

/-! ### The tracker after a step -/

section Frames
variable {d : Instr} {s : State}

theorem schedStep_A_of_held (h : Held d s) : (schedStep d s).A = s.A := by
  rw [schedStep_of_held h, appendCell_A]

theorem schedStep_A_of_not_held (h : ¬ Held d s) :
    (schedStep d s).A = (availWrite d s.nxt (s.cur.length + 1) s).A := by
  rw [schedStep_of_not_held h, enterStage_A, availWrite_A]

theorem schedStep_A_of_destination {rd : RegId} (hd : d.destinationRegister = some rd) (h : ¬ Held d s) :
    (schedStep d s).A =
      if availStage s.forwarding d.format = some s.nxt then trackerSet s.A rd (s.cur.length + 1) else s.A := by
  rw [schedStep_A_of_not_held h, availWrite_of_destination _ _ _ hd]

theorem schedStep_A_of_no_destination (hd : d.destinationRegister = none) (h : ¬ Held d s) :
    (schedStep d s).A = setAvail (anomalyWrite d s.nxt s.storeDataAvailAnomaly) (s.cur.length + 1) s.A := by
  rw [schedStep_A_of_not_held h, availWrite_of_no_destination _ _ _ hd]

end Frames

/-- Settles O22: the write of a class with a destination, and of one without. -/
theorem availabilityFollowsTheForwardingSelection : Obligations.AvailabilityFollowsTheForwardingSelection := by
  intro i s hp hready
  have hfree : ¬ Held i s := not_held_of_ready hp fun r hr => (ready_iff _ _ _).1 (hready r hr)
  refine ⟨_, exec_eq i s, ?_⟩
  have computed {d : Instr} {rd : RegId} (hd : Computes d rd) (hfree : ¬ Held d s) : (schedStep d s).A =
      if s.nxt = (if s.forwarding then .EXE else .WB) then trackerSet s.A rd (s.cur.length + 1) else s.A := by
    rw [schedStep_A_of_destination hd.destination hfree, hd.selection]
    exact if_congr (by rw [Option.some_inj, eq_comm]) rfl rfl
  cases i with
  | r rd rs1 rs2 => exact computed (computes_r rd rs1 rs2) hfree
  | i rd rs1 => exact computed (computes_i rd rs1) hfree
  | lui rd => exact computed (computes_lui rd) hfree
  | auipc rd => exact computed (computes_auipc rd) hfree
  | load rd rs1 =>
    rw [schedStep_A_of_destination rfl hfree]
    cases hf : s.forwarding <;> simp [Instr.format, availStage, eq_comm]
  | store rs1 rs2 =>
    rw [schedStep_A_of_no_destination rfl hfree, anomalyWrite]
    split_ifs <;> rfl
  | branch rs1 rs2 =>
    rw [schedStep_A_of_no_destination rfl hfree, anomalyWrite_of_register_none rfl, setAvail_none]
  | unknown => rw [schedStep_A_of_no_destination rfl hfree, anomalyWrite_of_register_none rfl, setAvail_none]

/-- Settles O34: only finishing touches more, and that is a step that enters WB. -/
theorem onlyTheWBStepTouchesTheRunState : Obligations.OnlyTheWBStepTouchesTheRunState := by
  intro i s t ht hwhen
  rw [exec_eq] at ht
  cases ht
  obtain ⟨-, hs⟩ | ⟨-, st, -, hs⟩ | ⟨hfree, hWB, -⟩ := schedStep_outcomes i s
  · rw [hs]; rfl
  · rw [hs]; rfl
  · exact (hwhen.elim (fun h => h hWB) fun hp => hfree (.inl hp)).elim

/-- Settles O35: a hold writes nothing, and an entry writes the destination alone. -/
theorem destinationClassesWriteOnlyTheirDestination : Obligations.DestinationClassesWriteOnlyTheirDestination := by
  intro i rd s t hd ht
  rw [exec_eq] at ht
  cases ht
  refine ⟨fun r hr => ?_, fun hp => schedStep_A_of_held (.inl hp), fun ⟨r, hr, hle⟩ =>
    schedStep_A_of_held (held_of_window hr hle)⟩
  by_cases hheld : Held i s
  · rw [schedStep_A_of_held hheld]
  · rw [schedStep_A_of_destination hd hheld]
    split_ifs
    · exact trackerGet_trackerSet_of_ne _ _ hr
    · rfl

/-- Settles O36: the only write of a class without a destination is the anomaly's. -/
theorem storeBranchUnknownWriteNoDestination : Obligations.StoreBranchUnknownWriteNoDestination := by
  intro i s t hi ht
  rw [exec_eq] at ht
  cases ht
  have hd : i.destinationRegister = none := by
    cases i with
    | store rs1 rs2 => rfl
    | branch rs1 rs2 => rfl
    | unknown => rfl
    | _ => simp [Instr.format] at hi
  by_cases hheld : Held i s
  · rw [schedStep_A_of_held hheld]
    exact ⟨fun r hne => absurd rfl hne, fun _ => rfl⟩
  · rw [schedStep_A_of_no_destination hd hheld]
    refine ⟨fun r hne => ?_, fun ha => by simp [anomalyWrite, ha]⟩
    rw [trackerGet_setAvail] at hne ⊢
    split_ifs at hne ⊢ with hwrite
    · obtain ⟨ha, hMEM, hr⟩ := (anomalyWrite_eq_some _ _ _ _).1 hwrite
      refine ⟨ha, hMEM, ?_, rfl⟩
      cases i <;> cases hr
      exact ⟨_, rfl⟩
    · exact absurd rfl hne

/-- Without forwarding every class with a destination records it at WB (R126). -/
theorem availStage_false_of_destination {d : Instr} {rd : RegId} (h : d.destinationRegister = some rd) :
    availStage false d.format = some .WB := by
  cases d <;> cases h <;> rfl

/-- Settles O37: the selection without forwarding is WB. -/
theorem withoutForwardingOnlyTheWBStepWrites : Obligations.WithoutForwardingOnlyTheWBStepWrites := by
  intro i rd s t hd hf ht
  rw [exec_eq] at ht
  cases ht
  have hsel := availStage_false_of_destination hd
  refine ⟨fun hne => ?_, fun hWB hp => ?_⟩
  · by_cases hheld : Held i s
    · exact schedStep_A_of_held hheld
    · rw [schedStep_A_of_destination hd hheld, hf, hsel, if_neg fun h => hne (Option.some_inj.1 h).symm]
  · have hfree : ¬ Held i s := not_held_of_no_window hp (by simp [hWB]) (by simp [hWB])
    rw [schedStep_A_of_destination hd hfree, hf, hsel, hWB, if_pos rfl]

/-- With forwarding no class records anything at WB (R129). -/
theorem availWrite_WB_of_forwarding {d : Instr} {s : State} (hf : s.forwarding = true) (c : Cycle) :
    availWrite d .WB c s = s := by
  have hdest : destinationWrite d .WB s.forwarding = none := by
    rw [hf]
    cases d <;> rfl
  rw [availWrite, hdest, anomalyWrite_of_ne_MEM _ (by decide)]
  rfl

/-- Settles O38: `availWrite_WB_of_forwarding`. -/
theorem withForwardingTheWBStepWritesNothing : Obligations.WithForwardingTheWBStepWritesNothing := by
  intro i s t hf hWB ht
  rw [exec_eq] at ht
  cases ht
  by_cases hheld : Held i s
  · exact schedStep_A_of_held hheld
  · rw [schedStep_A_of_not_held hheld, hWB, availWrite_WB_of_forwarding hf]

end Sys2Proof
end
